-- ==== Sys2Proof/Word.lean ====
section
/-! DEFINITION. The words the model is built from: a byte, and a sparse table of records. -/

namespace Sys2Proof

/-- A byte of hub memory or of a descriptor. -/
abbrev Byte := BitVec 8

/-- A sparse table: the records that differ from the table's formatted record, each under its index,
in rising order of index. What an unlisted index reads as is the formatted record of that table. -/
abbrev Table (α : Type) := List (Nat × α)

end Sys2Proof
end

