-- ==== Sys2Proof/Syntax.lean ====
section
/-! DEFINITION. The commands of the part: one constructor for each row of spec/opcode_table.json, in its
order, and the operands they carry. A command that moves data over the hub bus carries what the hub side
contributes to it, since hub memory belongs to the hub processor and the bus may answer with an error
(R182). -/

namespace Sys2Proof

/-- What becomes of one access of the part to the hub bus: it succeeds; it ends in a bus error (R182); or the
reset pin is asserted before it is made (R179), and neither it nor any later access of the command is.
`done` is read by the write of a result block alone: the number of its bytes that reached hub memory
before the error or the reset (R183). -/
inductive BusAnswer where
  | ok
  | error (done : Nat)
  | reset (done : Nat)
deriving DecidableEq, Repr

/-- What the hub side contributes to a command: the bytes the hub processor stored in hub memory since
the command before (`writes`, in order), and the bus's answers to the part's accesses within the
command, in the order they are made (`answers`; an access beyond the list succeeds, and a reset that stands
behind the last access made comes at the end of the command). DESIGN CHOICE (log entries 6, 7 and 8). -/
structure HubInput where
  writes : List Host.Cell
  answers : List BusAnswer
deriving DecidableEq, Repr

/-- A request descriptor (R183) less its code byte, which the command names, and what happens around the
grant that takes it: the ring it stands at the head of; every byte of the descriptor as the part reads it
at the grant; whether the hub processor writes a STOP to this ring (`stopRing`, R159) or to the engine
(`stopEngine`, R178) while the request is in hand; and the hub side's part. -/
structure Request where
  ring : Fin 4
  byte0 : Byte
  check : Byte
  length : Byte
  tag : BitVec 32
  block : BitVec 32
  params : BitVec 160
  stopRing : Bool
  stopEngine : Bool
  hub : HubInput
deriving DecidableEq, Repr

/-- The commands, one for each row of the table. A ring command names its ring by the three bits it has
in RING_COMMAND (R184). -/
inductive Instr where
  /-- R21: The grant that takes a BIKE_ARRIVED request. -/
  | bikeArrived (q : Request)
  /-- R25: The grant that takes a BIKE_REMOVED request. -/
  | bikeRemoved (q : Request)
  /-- R101: The grant that takes a DOCK_STATUS request. -/
  | dockStatus (q : Request)
  /-- R45: The grant that takes a CARD_CHECK request. -/
  | cardCheck (q : Request)
  /-- R51: The grant that takes a HIRE_RELEASE request. -/
  | hireRelease (q : Request)
  /-- R64: The grant that takes a HIRE_QUERY request. -/
  | hireQuery (q : Request)
  /-- R69: The grant that takes a CANCEL_RESERVATION request. -/
  | cancelReservation (q : Request)
  /-- R113: The grant that takes a VAN_SHIFT_START request. -/
  | vanShiftStart (q : Request)
  /-- R114: The grant that takes a VAN_SHIFT_END request. -/
  | vanShiftEnd (q : Request)
  /-- R118: The grant that takes a VAN_SUGGEST request. -/
  | vanSuggest (q : Request)
  /-- R120: The grant that takes a VAN_CLAIM request. -/
  | vanClaim (q : Request)
  /-- R121: The grant that takes a VAN_RELEASE_CLAIM request. -/
  | vanReleaseClaim (q : Request)
  /-- R123: The grant that takes a VAN_LOAD request. -/
  | vanLoad (q : Request)
  /-- R104: The grant that takes a WORKSHOP_DROP request. -/
  | workshopDrop (q : Request)
  /-- R130: The grant that takes a WORKSHOP_PICKUP request. -/
  | workshopPickup (q : Request)
  /-- R103: The grant that takes a FIELD_CLEAR request. -/
  | fieldClear (q : Request)
  /-- R102: The grant that takes a CREW_FLAG request. -/
  | crewFlag (q : Request)
  /-- R131: The grant that takes a VAN_QUERY request. -/
  | vanQuery (q : Request)
  /-- R145: The grant that takes a TIME_SET request. -/
  | timeSet (q : Request)
  /-- R76: The grant that takes a TARIFF_LOAD request. -/
  | tariffLoad (q : Request)
  /-- R15: The grant that takes a STATION_DEFINE request. -/
  | stationDefine (q : Request)
  /-- R111: The grant that takes a VAN_DEFINE request. -/
  | vanDefine (q : Request)
  /-- R16: The grant that takes a BIKE_COMMISSION request. -/
  | bikeCommission (q : Request)
  /-- R17: The grant that takes a BIKE_DECOMMISSION request. -/
  | bikeDecommission (q : Request)
  /-- R18: The grant that takes a DOCK_COMMISSION request. -/
  | dockCommission (q : Request)
  /-- R39: The grant that takes a CARD_PUT request. -/
  | cardPut (q : Request)
  /-- R41: The grant that takes a CARD_CREDIT request. -/
  | cardCredit (q : Request)
  /-- R42: The grant that takes a CARD_STATUS request. -/
  | cardStatus (q : Request)
  /-- R43: The grant that takes a CARD_RETIRE request. -/
  | cardRetire (q : Request)
  /-- R44: The grant that takes a CARD_QUERY request. -/
  | cardQuery (q : Request)
  /-- R46: The grant that takes a BULK_CARD_LOAD request. -/
  | bulkCardLoad (q : Request)
  /-- R66: The grant that takes a RESERVE request. -/
  | reserve (q : Request)
  /-- R105: The grant that takes a TICKET_CLOSE request. -/
  | ticketClose (q : Request)
  /-- R106: The grant that takes a DOCK_RESTORE request. -/
  | dockRestore (q : Request)
  /-- R107: The grant that takes a TICKET_QUERY request. -/
  | ticketQuery (q : Request)
  /-- R19: The grant that takes a BIKE_QUERY request. -/
  | bikeQuery (q : Request)
  /-- R20: The grant that takes a STATION_QUERY request. -/
  | stationQuery (q : Request)
  /-- R160: The grant of a ring whose head descriptor, as read, is no longer handed to the part (`q.byte0` bit 0 clear; `code` is its byte 2). -/
  | grantWithoutWork (code : Byte) (q : Request)
  /-- R55: The grant to the Timer Unit that carries out a due RELEASE_WINDOW entry. -/
  | releaseWindowExpiry (hub : HubInput)
  /-- R61: The grant to the Timer Unit that carries out a due OVERDUE entry. -/
  | overdueExpiry (hub : HubInput)
  /-- R62: The grant to the Timer Unit that carries out a due LOST entry. -/
  | lostExpiry (hub : HubInput)
  /-- R68: The grant to the Timer Unit that carries out a due HOLD_EXPIRY entry. -/
  | holdExpiry (hub : HubInput)
  /-- R126: The grant to the Timer Unit that carries out a due LOAD_WINDOW entry. -/
  | loadWindowExpiry (hub : HubInput)
  /-- R122: The grant to the Timer Unit that carries out a due CLAIM_EXPIRY entry. -/
  | claimExpiry (hub : HubInput)
  /-- R134: The grant to the Timer Unit that carries out a due TREND_EPOCH entry. -/
  | trendEpoch (hub : HubInput)
  /-- R47: The grant to the Bulk Loader that reads and applies one card image. -/
  | bulkCardImage (hub : HubInput)
  /-- R143: A pulse of the tick line. -/
  | tick
  /-- R179: The reset pin, asserted and released; it also releases a pin that a command before it left asserted
  (`BusAnswer.reset`). -/
  | resetPin
  /-- R174: A write of the INIT_FORMAT command to ENGINE. -/
  | initFormat
  /-- R174: A write of the INIT_KEEP command to ENGINE. -/
  | initKeep
  /-- R174: The end of the setup block read of an INIT in hand. -/
  | initCompletion (hub : HubInput)
  /-- R178: A write of the STOP command to ENGINE. -/
  | engineStop
  /-- R178: The end of a STOP procedure, once the work in hand is done. -/
  | stopCompletion (hub : HubInput)
  /-- R158: START of a request ring, written to RING_COMMAND. -/
  | ringStart (ring : Nat) (hub : HubInput)
  /-- R158: KICK of a request ring, written to RING_COMMAND. -/
  | kick (ring : Nat) (hub : HubInput)
  /-- R158: RESUME of a request ring, written to RING_COMMAND. -/
  | resume (ring : Nat) (hub : HubInput)
  /-- R159: STOP of a request ring, written to RING_COMMAND. -/
  | ringStop (ring : Nat)
  /-- R172: A write to the index port. -/
  | indexPortWrite (value : BitVec 16)
  /-- R142: A read of CLOCK low. -/
  | clockLowRead
  /-- R181: A write to EVENT. -/
  | eventClear (value : BitVec 16)
  /-- R181: A write to EVENT_ENABLE. -/
  | eventEnableWrite (value : BitVec 16)
  /-- R172: A write to the data port: to the word that the index register selects. -/
  | controlWordWrite (value : BitVec 16) (hub : HubInput)
  /-- R171: A grant that takes a descriptor whose byte 2, `code`, names no request of the part, or whose bytes fail the descriptor check. -/
  | unknownRequestCode (code : Byte) (q : Request)
deriving DecidableEq, Repr

end Sys2Proof
end

