-- ==== Sys2Proof/Config.lean ====
section
/-! DEFINITION. The fixed counts and limits of the part (00_scope.md, Fixed counts; the rule of each
chapter is named beside its count). The part leaves no value open, so this file holds no free value. -/

namespace Sys2Proof.Config

/-- R2: bike fleet numbers 0 to 2,047. -/
def bikes : Nat := 2048
/-- R8: dock indexes 0 to 1,023. -/
def docks : Nat := 1024
/-- R11: station indexes 0 to 31. -/
def stations : Nat := 32
/-- R11: a station has 1 to 64 docks. -/
def stationDocks : Nat := 64
/-- R28: card slots 0 to 16,383. -/
def cardSlots : Nat := 16384
/-- R32: chains of the card index. -/
def buckets : Nat := 4096
/-- R49: hire slots 0 to 1,023. -/
def hireSlots : Nat := 1024
/-- R92: ticket slots 0 to 511. -/
def ticketSlots : Nat := 512
/-- R109: vans 0 to 7. -/
def vans : Nat := 8
/-- R109: the largest capacity of a van. -/
def vanCapacity : Nat := 24
/-- R66: reservations held at once. -/
def reservations : Nat := 512
/-- R46: the most images of one bulk card load. -/
def bulkImages : Nat := 4096
/-- R142: the greatest clock value. -/
def clockMax : Nat := 4294967295
/-- R74, R83, R85: the greatest fare value, in fare units. -/
def fareMax : Nat := 16777215
/-- R29: the bound of a card balance, in minor units. -/
def balanceMax : Int := 1000000
/-- R28: serials have 56 bits; the greatest names no card (R184). -/
def serialAbsent : Nat := 72057594037927935
/-- R26: a lapse younger than this many seconds makes a removal late. -/
def lateGrace : Nat := 20
/-- R168: a pass-over count saturates here. -/
def passOverMax : Nat := 8
/-- R172: PART_ID, part code 24 with revision 1. -/
def partId : Nat := 6145
/-- R183: bytes of a descriptor. -/
def descriptorBytes : Nat := 32
/-- R175, R185: bytes of the setup block. -/
def setupBytes : Nat := 128
/-- R185: bytes of the tariff block. -/
def tariffBytes : Nat := 300
/-- R185: bytes of a bulk card image. -/
def imageBytes : Nat := 32

end Sys2Proof.Config
end

