-- ==== Sys2Proof/Machine/State.lean ====
section
/-! DEFINITION. Everything the spec gives the part to hold, as plain data, and the state after reset.
Names are those of the manual; the rule that names a record stands in its docstring. -/

namespace Sys2Proof.Machine

/-- A hire id (R49) or a ticket id (R92): a slot together with the slot's 8-bit generation. -/
structure Handle where
  slot : Nat
  gen : Nat
deriving DecidableEq, Repr

/-- R90: the ten causes of a fault, in the order of their encoding (R184). -/
inductive Cause where
  | bReported | bDamage | bServiceDue | bCrewFlag
  | dLatch | dReader | dPower | dForced | dConflict | dUnread
deriving DecidableEq, Repr

/-- R91: the fault state that each bike record and each dock record carries. -/
structure FaultState where
  ticket : Option Handle
  pending : Option Cause
  strikes : Nat
  condemned : Bool
deriving DecidableEq, Repr

/-- R2, R3: the state of a bike. -/
inductive BikeState where
  | uncommissioned | docked | releasing | loading | onHire | inVan | workshop | missing | retired
deriving DecidableEq, Repr

/-- R2: where a bike is; the place none is `Option.none` of this. -/
inductive Place where
  | dock (d : Nat)
  | van (v : Nat)
  | hire (h : Handle)
deriving DecidableEq, Repr

/-- R2: a bike record. -/
structure Bike where
  state : BikeState
  place : Option Place
  hire : Option Handle
  heldFor : Option Nat
  fault : FaultState
  rides : Nat
deriving DecidableEq, Repr

/-- R8, R9: the service of a dock. -/
inductive Service where
  | undefined | inService | outOfService | retired
deriving DecidableEq, Repr

/-- R8: what a dock holds. -/
inductive Content where
  | empty
  | bike (b : Nat)
  | unidentified
deriving DecidableEq, Repr

/-- R10: the lock phase of a dock. -/
inductive Latch where
  | latched
  | openForHire (h : Handle)
  | openForVan (v : Nat)
deriving DecidableEq, Repr

/-- R8: a last lapse, a card serial with a clock time. -/
structure Lapse where
  serial : Nat
  time : Nat
deriving DecidableEq, Repr

/-- R8: a dock record. -/
structure Dock where
  station : Option Nat
  service : Service
  content : Content
  latch : Latch
  fault : FaultState
  lastLapse : Option Lapse
deriving DecidableEq, Repr

/-- R11: a band, a pair of bike counts. -/
structure Band where
  low : Nat
  high : Nat
deriving DecidableEq, Repr

/-- R11: one set of indicator thresholds T1 to T5. -/
structure Thresholds where
  t1 : Nat
  t2 : Nat
  t3 : Nat
  t4 : Nat
  t5 : Nat
deriving DecidableEq, Repr

/-- R12: the census of a station. -/
structure Census where
  u : Nat
  f : Nat
  e : Nat
  o : Nat
  h : Nat
deriving DecidableEq, Repr

/-- R133: the trend of a station, in the order of its encoding (R184). -/
inductive Direction where
  | steady | filling | emptying
deriving DecidableEq, Repr

/-- R14: the settings of a station that STATION_DEFINE gives besides its range. -/
structure StationSettings where
  peakBand : Band
  offPeakBand : Band
  fillingT : Thresholds
  emptyingT : Thresholds
  flashAlarm : Nat
deriving DecidableEq, Repr

/-- R11: a station record. -/
structure Station where
  isDefined : Bool
  firstDock : Nat
  dockCount : Nat
  settings : StationSettings
  census : Census
  netFlow : Int
  direction : Direction
  lastWord : BitVec 16
  claimedBy : Option Nat
deriving DecidableEq, Repr

/-- The Fleet Store: bike, dock and station tables, and the number of reservations held (R65). -/
structure FleetStore where
  bikes : Table Bike
  docks : Table Dock
  stations : Table Station
  reservationsHeld : Nat
deriving DecidableEq, Repr

/-- R28: the fare class of a card, in the order of its encoding (R184). -/
inductive CardClass where
  | member | casual | guest | crew
deriving DecidableEq, Repr

/-- R30: the status of a card, in the order of its encoding (R184). -/
inductive CardStatus where
  | active | suspended | blocked | retiring
deriving DecidableEq, Repr

/-- R28: a card's reservation, a bike number with a station. -/
structure Reservation where
  bike : Nat
  station : Nat
deriving DecidableEq, Repr

/-- R28: a card record. Its chain link is the next slot of its chain in `CardStore.chains`
(`Sys2Proof.Machine.chainLink`). -/
structure Card where
  serial : Nat
  cls : CardClass
  status : CardStatus
  guest : Bool
  balance : Int
  carry : Nat
  holdTotal : Int
  openHires : List Handle
  hireLimit : Nat
  expiryDay : Option Nat
  capDay : Nat
  daySpent : Nat
  reservation : Option Reservation
  reportsToday : Nat
  reportDay : Nat
deriving DecidableEq, Repr

/-- The Card Store: the card table (a free slot is `none`), the 4,096 bucket chains, each as its slots
from the head on (R32), and the free-slot stack, top first (R33). -/
structure CardStore where
  cards : Table (Option Card)
  chains : Table (List Nat)
  free : List Nat
deriving DecidableEq, Repr

/-- R50: the state of a hire. -/
inductive HireState where
  | releasing | riding | overdue
deriving DecidableEq, Repr

/-- R49: a hire record; its id is the slot it stands in with the slot's generation. -/
structure Hire where
  state : HireState
  card : Nat
  bike : Nat
  origin : Nat
  releaseTime : Nat
  startTime : Option Nat
  hold : Int
  cls : CardClass
deriving DecidableEq, Repr

/-- R49: a slot of the Hire Table. -/
structure HireSlot where
  gen : Nat
  hire : Option Hire
deriving DecidableEq, Repr

/-- R73: the class parameters of one class. -/
structure ClassParams where
  hold : Int
  releaseMin : Int
  freeMinutes : Nat
  dailyCap : Nat
  floor : Int
deriving DecidableEq, Repr

/-- R74: a knot of a fare curve. -/
structure Knot where
  pos : Nat
  value : Nat
deriving DecidableEq, Repr

/-- R75: a window of the window set. -/
structure Window where
  start : Nat
  stop : Nat
  factor : Nat
deriving DecidableEq, Repr

/-- R72: a tariff. -/
structure Tariff where
  member : ClassParams
  casual : ClassParams
  guest : ClassParams
  crew : ClassParams
  memberCurve : List Knot
  casualCurve : List Knot
  grid : Nat
  windows : List Window
  grace : Nat
  billingStep : Nat
  waiverWindow : Nat
  lostFee : Int
deriving DecidableEq, Repr

/-- The Tariff Unit: the active tariff and its loaded flag (R72). -/
structure TariffUnit where
  loaded : Bool
  active : Tariff
deriving DecidableEq, Repr

/-- R92, R93: what a fault is raised against. -/
inductive Subject where
  | bike (b : Nat)
  | dock (d : Nat)
deriving DecidableEq, Repr

/-- R97: the state of a ticket. -/
inductive TicketState where
  | opened | collected | inWorkshop
deriving DecidableEq, Repr

/-- R92: a ticket record; its id is the slot it stands in with the slot's generation. -/
structure Ticket where
  subject : Subject
  cause : Cause
  state : TicketState
  openedTime : Option Nat
  reporter : Option Nat
deriving DecidableEq, Repr

/-- R92: a slot of the ticket table. -/
structure TicketSlot where
  gen : Nat
  ticket : Option Ticket
deriving DecidableEq, Repr

/-- The Fault Unit: the ticket table and the fault waiting list, head first (R93). The cause policy table
and the strike limits stand with the other values of the setup block, in `Settings`. -/
structure FaultUnit where
  tickets : Table TicketSlot
  waiting : List Subject
deriving DecidableEq, Repr

/-- R109: a van's claim, a station with an expiry time. -/
structure Claim where
  station : Nat
  expiry : Nat
deriving DecidableEq, Repr

/-- R109: a van record. The shift is ON_SHIFT exactly while a crew card is present. -/
structure Van where
  isDefined : Bool
  capacity : Nat
  crew : Option Nat
  claim : Option Claim
  load : Option Nat
  manifest : List Nat
deriving DecidableEq, Repr

/-- R146: the kinds of deadline entry, each with its owner. -/
inductive Deadline where
  | releaseWindow (h : Handle)
  | overdue (h : Handle)
  | lost (h : Handle)
  | holdExpiry (bike : Nat)
  | loadWindow (van : Nat)
  | claimExpiry (van : Nat)
  | trendEpoch
deriving DecidableEq, Repr

/-- R146: an entry of the deadline list. -/
structure Entry where
  what : Deadline
  due : Nat
deriving DecidableEq, Repr

/-- The Timer Unit (R142, R146): the clock, `none` while it is UNSET (the clock-set flag is its being
present); the captured high half; and the deadline list, head first. -/
structure Timer where
  clock : Option Nat
  captured : BitVec 16
  deadlines : List Entry
deriving DecidableEq, Repr

/-- The stores that the Record Engine reads and writes. -/
structure Store where
  fleet : FleetStore
  cards : CardStore
  hires : Table HireSlot
  tariff : TariffUnit
  faults : FaultUnit
  vans : Table Van
  timer : Timer
deriving DecidableEq, Repr

/-- R154: where a ring lies in hub memory and how many descriptors it has. -/
structure RingPlace where
  base : Nat
  size : Nat
deriving DecidableEq, Repr

/-- R90: the three options of a cause. -/
structure Policy where
  fieldOverride : Bool
  countsStrike : Bool
  permanent : Bool
deriving DecidableEq, Repr

/-- R175, R176: the settings that the last successful INIT loaded from the setup block. The cause policy
table is indexed by the code of the cause (R184). -/
structure Settings where
  requestRings : Table RingPlace
  responseRings : Table RingPlace
  noticeRing : RingPlace
  homeIssuer : Nat
  acceptMask : BitVec 64
  guestAcceptance : Bool
  anyIssuer : Bool
  checking : Bool
  localOffset : Int
  serviceInterval : Nat
  reportLimit : Nat
  policies : Table Policy
  releaseWindow : Nat
  reservationHold : Nat
  claimDuration : Nat
  overduePoint : Nat
  lostPoint : Nat
  trendPeriod : Nat
  bikeStrikeLimit : Nat
  dockStrikeLimit : Nat
deriving DecidableEq, Repr

/-- R155: the state of a request ring, in the order of its encoding (R184). -/
inductive RingState where
  | off | idle | ready | blocked | failed
deriving DecidableEq, Repr

/-- R154, R155: a request ring with its paired response ring: the state and stop-pending flag, the head
index and the response index, and the places in force since the last START. -/
structure Ring where
  state : RingState
  stopPending : Bool
  head : Nat
  responseIndex : Nat
  request : RingPlace
  response : RingPlace
deriving DecidableEq, Repr

/-- R164: the response slot reserved by a bulk load, with the tag its response carries (R162). -/
structure ReservedSlot where
  index : Nat
  tag : BitVec 32
deriving DecidableEq, Repr

/-- The Ring Interface: the four request rings, the notice ring (R154), the reserved slot, and the ring
whose request is in hand (R155). -/
structure RingInterface where
  rings : Table Ring
  noticeIndex : Nat
  notice : RingPlace
  reserved : Option ReservedSlot
  inHand : Option Nat
deriving DecidableEq, Repr

/-- R46: a bulk card load in flight. -/
structure BulkLoad where
  address : Nat
  count : Nat
  progress : Nat
  created : Nat
  updated : Nat
  refused : Nat
  processed : Nat
deriving DecidableEq, Repr

/-- R174: which INIT is in hand. -/
inductive InitKind where
  | format | keep
deriving DecidableEq, Repr

/-- R173: the engine state. -/
inductive EngineState where
  | stopped
  | initializing (kind : InitKind)
  | running
deriving DecidableEq, Repr

/-- R173: the result of the last INIT, in the order of its encoding (R184). -/
inductive InitResult where
  | none | ok | unformatted | busError
deriving DecidableEq, Repr

/-- R173: the engine status; and R179: whether the reset pin is asserted. -/
structure Engine where
  state : EngineState
  stopPending : Bool
  formatted : Bool
  lastInit : InitResult
  resetAsserted : Bool
deriving DecidableEq, Repr

/-- R172, R180: the control port: the index register, the setup address, the ten event flags and the ten
enables in the bit order of R184, and `dataOut`, the value that the last CLOCK_LOW_READ returned on the
bus (the model's own field: an output). -/
structure Port where
  index : BitVec 4
  setupAddress : BitVec 32
  events : BitVec 10
  enables : BitVec 10
  dataOut : BitVec 16
deriving DecidableEq, Repr

/-- The hub side of the bus: hub memory, and the answers the bus will give to the accesses of the command
in hand (the model's own field: empty between commands). -/
structure Hub where
  mem : Table Byte
  answers : List BusAnswer
deriving DecidableEq, Repr

/-- The part: its blocks, the six pass-over counts of the Engine Arbiter under their priorities (R168),
the hub memory it shares, and the commands waiting, first in, first out. -/
structure State where
  engine : Engine
  port : Port
  settings : Settings
  store : Store
  bulk : Option BulkLoad
  rings : RingInterface
  passOver : Table Nat
  hub : Hub
  pending : List Instr
deriving DecidableEq, Repr

/-- Why the machine stops with a fault. -/
inductive Fault where
  /-- Raised by an expiry whose due head entry names an owner that is not in the state R148 says it is in
  whenever the Timer Unit takes the head. Safe: R148 lets no such state arise, and the model claims
  nothing there. -/
  | ownerNotInState
deriving DecidableEq, Repr

/-- Why the model refuses a command. -/
inductive Refusal where
  /-- Raised by an arm of `exec` that has no meaning yet, none at present. Safe: the model stops. -/
  | notModelled (mnemonic : String)
deriving DecidableEq, Repr

/-- R73: class parameters before any tariff is loaded (not read: R72). -/
def noClass : ClassParams := ⟨0, 0, 0, 0, 0⟩

/-- The tariff field before any tariff is loaded (not read: R72). -/
def noTariff : Tariff :=
  ⟨noClass, noClass, noClass, noClass, [], [], 0, [], 0, 0, 0, 0⟩

/-- The settings before any INIT (not in force: R179). DESIGN CHOICE (log entry 5). -/
def noSettings : Settings :=
  ⟨[], [], ⟨0, 0⟩, 0, 0#64, false, false, false, 0, 0, 0, [], 0, 0, 0, 0, 0, 0, 0, 0⟩

/-- The store before any INIT (unreachable: R177, R179): empty tables. DESIGN CHOICE (log entry 3). -/
def noStore : Store :=
  ⟨⟨[], [], [], 0⟩, ⟨[], [], []⟩, [], ⟨false, noTariff⟩, ⟨[], []⟩, [], ⟨none, 0#16, []⟩⟩

/-- R179: the part right after the reset pin. What the rule does not name has the value that the log
entries 3, 4 and 5 give. -/
def State.reset : State :=
  { engine := ⟨.stopped, false, false, .none, false⟩
    port := ⟨0#4, 0#32, 0#10, 0#10, 0#16⟩
    settings := noSettings
    store := noStore
    bulk := none
    rings := ⟨[], 0, ⟨0, 0⟩, none, none⟩
    passOver := []
    hub := ⟨[], []⟩
    pending := [] }

end Sys2Proof.Machine
end

