-- ==== Sys2Proof/Machine/Table.lean ====
section
/-! DEFINITION. Reading and writing a sparse table. A table lists the records that differ from its
formatted record `d`, in strictly rising order of index, so that equal tables are equal data. -/

namespace Sys2Proof.Machine

/-- The record at index `k`: the one listed, or the formatted record `d`. -/
def readAt {α : Type} (d : α) : Table α → Nat → α
  | [], _ => d
  | (j, v) :: t, k => if j = k then v else readAt d t k

/-- The table with no record listed at `k`. -/
def unlist {α : Type} : Table α → Nat → Table α
  | [], _ => []
  | (j, v) :: t, k => if j = k then unlist t k else (j, v) :: unlist t k

/-- The table with `v` listed at `k`, in its place. -/
def list {α : Type} : Table α → Nat → α → Table α
  | [], k, v => [(k, v)]
  | (j, u) :: t, k, v =>
    if k < j then (k, v) :: (j, u) :: t
    else if j = k then (k, v) :: t
    else (j, u) :: list t k v

/-- The table after `v` is written at `k`: writing the formatted record removes the listing. -/
def writeAt {α : Type} [DecidableEq α] (d : α) (t : Table α) (k : Nat) (v : α) : Table α :=
  if v = d then unlist t k else list t k v

/-- Whether a table is in its one form, given that every index must lie above `lo`. -/
def canonicalFrom {α : Type} [DecidableEq α] (d : α) : Nat → Table α → Bool
  | _, [] => true
  | lo, (j, v) :: t => decide (lo ≤ j) && decide (v ≠ d) && canonicalFrom d (j + 1) t

/-- Whether a table is in its one form: indexes strictly rising, no formatted record listed. -/
def canonical {α : Type} [DecidableEq α] (d : α) (t : Table α) : Bool := canonicalFrom d 0 t

end Sys2Proof.Machine
end

