-- ==== Sys2Proof/Machine/Operands.lean ====
section
/-! DEFINITION. The operand forms of the part: the fields of a request descriptor, the request codes with
their rings and parameter sizes, and the widths and encodings of every field (R183, R184). -/

namespace Sys2Proof.Machine

/-! ## Bytes -/

/-- R183: the `k` bytes of a number, least significant first. -/
def le : Nat → Nat → List Byte
  | 0, _ => []
  | k + 1, n => BitVec.ofNat 8 n :: le k (n / 256)

/-- R183: the `k` bytes of a signed number in two's complement. -/
def leInt (k : Nat) (i : Int) : List Byte := le k (i % (256 ^ k : Nat)).toNat

/-- The number that bytes make, the first least significant. -/
def fromBytes : List Byte → Nat
  | [] => 0
  | b :: t => b.toNat + 256 * fromBytes t

/-- The field of `width` bytes at byte offset `off` of a structure read as one number. -/
def field (block off width : Nat) : Nat := block / 256 ^ off % 256 ^ width

/-- A field of `width` bytes read as a signed number. -/
def signedField (block off width : Nat) : Int :=
  let n := field block off width
  if n < 256 ^ width / 2 then n else (n : Int) - (256 ^ width : Nat)

/-- The sum of the `k` low bytes of a number, mod 256: the descriptor check (R161), the tariff check (R77)
and the image check (R47) compare it with 255. -/
def byteSum : Nat → Nat → Nat
  | 0, _ => 0
  | k + 1, n => (n % 256 + byteSum k (n / 256)) % 256

/-! ## The request descriptor -/

/-- R183: bit 0 of byte 0, set while the descriptor is handed to the part. -/
def owned (q : Request) : Bool := q.byte0.getLsbD 0

/-- R183: the 32 bytes of the descriptor with code byte `code`. -/
def descriptorBytes (code : Byte) (q : Request) : List Byte :=
  [q.byte0, q.check, code, q.length] ++ le 4 q.tag.toNat ++ le 4 q.block.toNat ++ le 20 q.params.toNat

/-- R160, R183: the descriptor as it is written back, bit 0 of byte 0 cleared and the rest as read. -/
def writtenBackBytes (code : Byte) (q : Request) : List Byte :=
  [q.byte0 &&& 0xFE#8, q.check, code, q.length] ++ le 4 q.tag.toNat ++ le 4 q.block.toNat ++
    le 20 q.params.toNat

/-- R161: the sum of the 32 bytes read. -/
def descriptorSum (code : Byte) (q : Request) : Nat :=
  byteSum 32 (fromBytes (descriptorBytes code q))

/-- The parameter of `width` bytes at offset `off` of the parameter area. -/
def param (q : Request) (off width : Nat) : Nat := field q.params.toNat off width

/-- A signed parameter. -/
def signedParam (q : Request) (off width : Nat) : Int := signedField q.params.toNat off width

/-- R184: a ticket id or hire id parameter. -/
def handleParam (q : Request) (off : Nat) : Handle := ⟨param q off 2, param q (off + 2) 1⟩

/-- R184: the dock or bike number that is absent. -/
def absent2 : Nat := 65535
/-- R184: UNREAD in arrival and removal parameters, UNIDENTIFIED in a dock content. -/
def unread : Nat := 65534

/-! ## Request codes (9.8, R184) -/

/-- The request codes in their order from 1: the ring each arrives on and its parameter size. -/
def codeTable : List (Nat × Nat) :=
  [(0, 6), (0, 4), (0, 3),
   (1, 7), (1, 10), (1, 8), (1, 7),
   (2, 8), (2, 8), (2, 9), (2, 9), (2, 8), (2, 10), (2, 10), (2, 10), (2, 11), (2, 10), (2, 8),
   (3, 4), (3, 6), (3, 19), (3, 2), (3, 2), (3, 2), (3, 2), (3, 16), (3, 11), (3, 8), (3, 7), (3, 7),
   (3, 6), (3, 8), (3, 4), (3, 2), (3, 4), (3, 2), (3, 2)]

/-- The ring and parameter size of a request code, none for a value that names no code of the part. -/
def codeEntry (code : Byte) : Option (Nat × Nat) :=
  if code = 0#8 then none else codeTable[code.toNat - 1]?

/-- R183: the size of the parameter area. -/
def paramArea : Nat := 20

/-- R184: the code of BULK_CARD_LOAD, which the reserved slot's response carries. -/
def bulkCardLoadCode : Byte := 31#8

/-! ## Outcomes and reasons -/

/-- R171, R184: the outcomes of a response, in the order of their encoding. -/
inductive OutcomeCode where
  | ok | deferred | descCheck | badRequest | wrongRing | badLength | staleId | notFound | wrongState
  | cardRefused | tableFull | creditLimit | hireLimit | fundsLow | noTime | noTariff | noBike
  | bikeUnavailable | bikeHeld | dockUnavailable | badTariff | workshopOnly | crewRefused | noJob
  | claimTaken | notClaimed | manifestFull | busy | busError | stopped
deriving DecidableEq, Repr

/-- R184: the encoding of an outcome, its place in the list from 0. -/
def OutcomeCode.toCode : OutcomeCode → Nat
  | .ok => 0 | .deferred => 1 | .descCheck => 2 | .badRequest => 3 | .wrongRing => 4 | .badLength => 5
  | .staleId => 6 | .notFound => 7 | .wrongState => 8 | .cardRefused => 9 | .tableFull => 10
  | .creditLimit => 11 | .hireLimit => 12 | .fundsLow => 13 | .noTime => 14 | .noTariff => 15
  | .noBike => 16 | .bikeUnavailable => 17 | .bikeHeld => 18 | .dockUnavailable => 19
  | .badTariff => 20 | .workshopOnly => 21 | .crewRefused => 22 | .noJob => 23 | .claimTaken => 24
  | .notClaimed => 25 | .manifestFull => 26 | .busy => 27 | .busError => 28 | .stopped => 29

/-- Reasons of WRONG_STATE for STATION_DEFINE (R15), from 1 in the order of the outcome table. -/
def reasonRange : Nat := 1
def reasonOverlap : Nat := 2
def reasonClaimed : Nat := 3
def reasonDocksBusy : Nat := 4
/-- Reasons of CARD_REFUSED (R36, R51). -/
def reasonIssuer : Nat := 1
def reasonBlocked : Nat := 2
def reasonSuspended : Nat := 3
def reasonRetiring : Nat := 4
def reasonExpired : Nat := 5
/-- Reasons of TABLE_FULL (R33, R51, R66). -/
def reasonCards : Nat := 1
def reasonHires : Nat := 2
def reasonReservations : Nat := 3
/-- Reasons of BAD_TARIFF (R77). -/
def reasonCheck : Nat := 1
def reasonKnotCount : Nat := 2
def reasonFirstKnot : Nat := 3
def reasonKnotOrder : Nat := 4
def reasonKnotValue : Nat := 5
def reasonGrid : Nat := 6
def reasonWindow : Nat := 7
/-- Reasons of CREW_REFUSED (R112, R113). -/
def reasonOffShift : Nat := 1
def reasonCrew : Nat := 2
def reasonAbsent : Nat := 3
def reasonClass : Nat := 4
def reasonStatus : Nat := 5
def reasonInUse : Nat := 6

/-! ## Field encodings (R184) -/

def encBike : Option Nat → List Byte
  | some b => le 2 b
  | none => le 2 absent2

def encDock : Option Nat → List Byte
  | some d => le 2 d
  | none => le 2 absent2

def encContent : Content → List Byte
  | .empty => le 2 absent2
  | .bike b => le 2 b
  | .unidentified => le 2 unread

/-- A station or a van, 255 when absent. -/
def encStation : Option Nat → List Byte
  | some i => le 1 i
  | none => le 1 255

def encSerial : Option Nat → List Byte
  | some s => le 7 s
  | none => le 7 Config.serialAbsent

def encHandle : Option Handle → List Byte
  | some h => le 2 h.slot ++ le 1 h.gen
  | none => le 3 16777215

/-- A subject. R184 gives it no absent form: that an absent one (nothing served in R99 and R106, an empty
waiting list in the SUMMARY of R107) is three bytes of 255, as an absent id is, is the model's choice.
DESIGN CHOICE (log entry 13). -/
def encSubject : Option Subject → List Byte
  | some (.bike b) => le 1 0 ++ le 2 b
  | some (.dock d) => le 1 1 ++ le 2 d
  | none => le 3 16777215

def encClock (t : Nat) : List Byte := le 4 t

/-- A clock value that its rule marks optional: a presence byte and the value. -/
def encOptClock : Option Nat → List Byte
  | some t => le 1 1 ++ le 4 t
  | none => le 1 0 ++ le 4 0

/-- A membership expiry day, 65,535 when absent. -/
def encDay : Option Nat → List Byte
  | some d => le 2 d
  | none => le 2 65535

/-- Money in results and notices. -/
def encMoney (m : Int) : List Byte := leInt 3 m

/-- Fare units and minutes, saturating at their width (R81). -/
def encFare (f : Nat) : List Byte := le 3 (min f 16777215)

def encFlag (b : Bool) : List Byte := le 1 (if b then 1 else 0)

def Cause.toCode : Cause → Nat
  | .bReported => 1 | .bDamage => 2 | .bServiceDue => 3 | .bCrewFlag => 4 | .dLatch => 5
  | .dReader => 6 | .dPower => 7 | .dForced => 8 | .dConflict => 9 | .dUnread => 10

def encCause : Option Cause → List Byte
  | some c => le 1 c.toCode
  | none => le 1 0

def CardClass.toCode : CardClass → Nat
  | .member => 0 | .casual => 1 | .guest => 2 | .crew => 3

def CardClass.ofCode : Nat → Option CardClass
  | 0 => some .member
  | 1 => some .casual
  | 2 => some .guest
  | 3 => some .crew
  | _ => none

def CardStatus.toCode : CardStatus → Nat
  | .active => 0 | .suspended => 1 | .blocked => 2 | .retiring => 3

def BikeState.toCode : BikeState → Nat
  | .uncommissioned => 0 | .docked => 1 | .releasing => 2 | .loading => 3 | .onHire => 4
  | .inVan => 5 | .workshop => 6 | .missing => 7 | .retired => 8

def Service.toCode : Service → Nat
  | .undefined => 0 | .inService => 1 | .outOfService => 2 | .retired => 3

def HireState.toCode : HireState → Nat
  | .releasing => 0 | .riding => 1 | .overdue => 2

def TicketState.toCode : TicketState → Nat
  | .opened => 0 | .collected => 1 | .inWorkshop => 2

def Direction.toCode : Direction → Nat
  | .steady => 0 | .filling => 1 | .emptying => 2

def RingState.toCode : RingState → Nat
  | .off => 0 | .idle => 1 | .ready => 2 | .blocked => 3 | .failed => 4

/-- The kind of a deadline entry, in the order of R146 from 0. -/
def Deadline.toCode : Deadline → Nat
  | .releaseWindow _ => 0 | .overdue _ => 1 | .lost _ => 2 | .holdExpiry _ => 3 | .loadWindow _ => 4
  | .claimExpiry _ => 5 | .trendEpoch => 6

/-- R90: who may close a ticket of a cause. -/
inductive Recovery where
  | field | workshop | depot
deriving DecidableEq, Repr

/-- R90: the default recovery of a cause. -/
def Cause.recovery : Cause → Recovery
  | .bReported => .field
  | .bDamage => .workshop
  | .bServiceDue => .workshop
  | .bCrewFlag => .workshop
  | .dLatch => .depot
  | .dReader => .field
  | .dPower => .depot
  | .dForced => .field
  | .dConflict => .field
  | .dUnread => .field

/-- The encoding of a recovery: the manual lists none, so the order in which R90's text names them.
DEDUCED (log entry 13). -/
def Recovery.toCode : Recovery → Nat
  | .field => 0 | .workshop => 1 | .depot => 2

end Sys2Proof.Machine
end

