-- ==== Sys2Proof/Machine/Flags.lean ====
section
/-! DEFINITION. Flag and word computations: the event flags and the interrupt line (R180, R181), the
indicator word (R136, R137), the direction (R133), and the control words as they read (R172, R184). -/

namespace Sys2Proof.Machine

/-! ## Event flags -/

/-- The event flag at a bit position of EVENT (R184). -/
def eventFlag (n : Nat) : BitVec 10 := 1#10 <<< n

/-- RESPONSE_WRITTEN of ring `n`. -/
def responseWritten (n : Nat) : BitVec 10 := eventFlag n
def noticeWritten : BitVec 10 := eventFlag 4
def noticeLost : BitVec 10 := eventFlag 5
def ringFailed : BitVec 10 := eventFlag 6
def initDone : BitVec 10 := eventFlag 7
def initFailed : BitVec 10 := eventFlag 8
def stopDone : BitVec 10 := eventFlag 9

/-- R180: an event sets its flag; a flag already set stays set. -/
def raiseEvent (s : State) (flag : BitVec 10) : State :=
  { s with port.events := s.port.events ||| flag }

/-- R181: whether the interrupt line is active: some event flag is set with its enable set. -/
def interruptActive (s : State) : Bool := (s.port.events &&& s.port.enables) != 0#10

/-! ## Direction and indicator word -/

/-- R133: the direction of a net flow. -/
def directionOf (flow : Int) : Direction :=
  if 3 ≤ flow then .filling else if flow ≤ -3 then .emptying else .steady

/-- R12, R115, R136: a station is closed when every dock of its range counts in O. -/
def closed (r : Station) : Bool := r.census.o == r.dockCount

/-- R137: the threshold set read for lit. -/
def thresholdsRead (r : Station) : Thresholds :=
  if r.direction = .emptying then r.settings.emptyingT else r.settings.fillingT

/-- R136: the number of thresholds of a set that U meets. -/
def metThresholds (t : Thresholds) (u : Nat) : Nat :=
  (if t.t1 ≤ u then 1 else 0) + (if t.t2 ≤ u then 1 else 0) + (if t.t3 ≤ u then 1 else 0) +
    (if t.t4 ≤ u then 1 else 0) + (if t.t5 ≤ u then 1 else 0)

/-- R136: lamps lit. -/
def lit (r : Station) : Nat :=
  if closed r then 0 else metThresholds (thresholdsRead r) r.census.u

/-- R136: whether the display flashes. -/
def flash (r : Station) : Bool :=
  !closed r && decide (r.census.u ≤ r.settings.flashAlarm) && decide (r.direction ≠ .filling)

/-- R136: whether the top lamp pulses. -/
def pulseTop (r : Station) : Bool :=
  !closed r && decide (r.direction = .filling) && decide (1 ≤ lit r)

/-- R136, R184: the indicator word: bits 0 to 2 lit, bit 3 flash, bit 4 pulse top, bit 5 closed. -/
def indicatorWord (r : Station) : BitVec 16 :=
  BitVec.ofNat 16
    (lit r + (if flash r then 8 else 0) + (if pulseTop r then 16 else 0) + (if closed r then 32 else 0))

/-! ## Control words as they read -/

/-- R154, R155: a ring that no START has yet placed, with its cleared indexes. -/
def formattedRing : Ring := ⟨.off, false, 0, 0, ⟨0, 0⟩, ⟨0, 0⟩⟩

/-- The record of request ring `n`. -/
def ringAt (s : State) (n : Nat) : Ring := readAt formattedRing s.rings.rings n

def EngineState.toCode : EngineState → Nat
  | .stopped => 0 | .initializing _ => 1 | .running => 2

def InitResult.toCode : InitResult → Nat
  | .none => 0 | .ok => 1 | .unformatted => 2 | .busError => 3

/-- R173, R184: the engine status as ENGINE reads. -/
def engineStatus (s : State) : BitVec 16 :=
  BitVec.ofNat 16
    (s.engine.state.toCode + (if s.engine.stopPending then 4 else 0) +
      (if s.store.timer.clock.isSome then 8 else 0) + (if s.engine.formatted then 16 else 0) +
      (if s.bulk.isSome then 32 else 0) + 64 * s.engine.lastInit.toCode)

/-- R155, R184: RING_STATE. -/
def ringStates (s : State) : BitVec 16 :=
  BitVec.ofNat 16
    ((ringAt s 0).state.toCode + 16 * (ringAt s 1).state.toCode + 256 * (ringAt s 2).state.toCode +
      4096 * (ringAt s 3).state.toCode)

/-- R142: the low and the high 16 bits of the clock, 0 while it is UNSET. -/
def clockLow (s : State) : BitVec 16 := BitVec.ofNat 16 (s.store.timer.clock.getD 0)
def clockHigh (s : State) : BitVec 16 := BitVec.ofNat 16 (s.store.timer.clock.getD 0 / 65536)

/-- R172: what a read of the data port returns when the index register holds `index`. A read of CLOCK low
also captures the high half, which `execClockLowRead` does; the other reads change nothing. -/
def controlWord (s : State) (index : BitVec 4) : BitVec 16 :=
  match index.toNat with
  | 0 => engineStatus s
  | 1 => s.port.setupAddress.setWidth 16
  | 2 => (s.port.setupAddress >>> 16).setWidth 16
  | 3 => 0#16
  | 4 => ringStates s
  | 5 => s.port.events.setWidth 16
  | 6 => s.port.enables.setWidth 16
  | 7 => clockLow s
  | 8 => s.store.timer.captured
  | 9 => BitVec.ofNat 16 Config.partId
  | _ => 0#16

/-- R172: what a read of the index port returns. -/
def indexPort (s : State) : BitVec 16 := s.port.index.setWidth 16

end Sys2Proof.Machine
end

