-- ==== Sys2Proof/Machine/Notices.lean ====
section
/-! DEFINITION. The notices of the part (9.8) and their contents (R183, R184): the fields that the rule of
each notice names, in its order (DEDUCED where a rule names them in words only: log entry 14). -/

namespace Sys2Proof.Machine

/-- A notice with its contents. `bikeMissing` and `bikeLost` are both of kind BIKE_MISSING: the notice of
R22 and R26, and that of R62. -/
inductive Notice where
  | releaseLapsed (hire : Handle) (serial : Option Nat) (bike dock : Nat)
  | releaseCancelled (hire : Handle) (serial : Option Nat) (bike origin dock : Nat)
  | hireOverdue (hire : Handle) (serial : Option Nat) (bike start due : Nat)
  | bikeMissing (bike dock : Nat) (serial : Option Nat)
  | bikeLost (bike : Nat) (serial : Option Nat) (hire : Handle) (charged writeOff balance : Int)
  | bikeFound (bike dock : Nat)
  | cardRetired (serial : Nat) (guest : Bool) (balance : Int) (carry : Nat)
  | holdExpired (serial : Option Nat) (bike station : Nat)
  | reservationMoved (serial : Option Nat) (old new station : Nat)
  | reservationLost (serial : Option Nat) (bike station : Nat)
  | ticketOpened (id : Handle) (subject : Subject) (cause : Cause) (state : TicketState)
      (reporter : Option Nat) (strikes : Nat) (condemned served : Bool)
  | ticketWaiting (subject : Subject) (cause : Cause) (position strikes : Nat) (condemned : Bool)
  | faultMerged (subject : Subject) (cause : Cause) (ticket : Option Handle) (pending : Option Cause)
      (strikes : Nat) (condemned : Bool)
  | loadLapsed (van dock bike : Nat)
  | loadCancelled (van loadDock bike dock : Nat)
  | claimLapsed (van station expiry : Nat)
  | indicator (station : Nat) (word previous : BitVec 16) (u o dockCount : Nat) (flow : Int)
      (direction : Direction) (clock : Option Nat)
deriving DecidableEq, Repr

/-- R184: the kind of a notice, from 1 in the order of the notice table. -/
def Notice.kind : Notice → Nat
  | .releaseLapsed .. => 1
  | .releaseCancelled .. => 2
  | .hireOverdue .. => 3
  | .bikeMissing .. => 4
  | .bikeLost .. => 4
  | .bikeFound .. => 5
  | .cardRetired .. => 6
  | .holdExpired .. => 7
  | .reservationMoved .. => 8
  | .reservationLost .. => 9
  | .ticketOpened .. => 10
  | .ticketWaiting .. => 11
  | .faultMerged .. => 12
  | .loadLapsed .. => 13
  | .loadCancelled .. => 14
  | .claimLapsed .. => 15
  | .indicator .. => 16

/-- R184: the contents of a notice. -/
def Notice.contents : Notice → List Byte
  | .releaseLapsed h s b d => encHandle (some h) ++ encSerial s ++ encBike (some b) ++ encDock (some d)
  | .releaseCancelled h s b o d =>
    encHandle (some h) ++ encSerial s ++ encBike (some b) ++ encDock (some o) ++ encDock (some d)
  | .hireOverdue h s b t due =>
    encHandle (some h) ++ encSerial s ++ encBike (some b) ++ encClock t ++ encClock due
  | .bikeMissing b d s => encBike (some b) ++ encDock (some d) ++ encSerial s
  | .bikeLost b s h q w bal =>
    encBike (some b) ++ encDock none ++ encSerial s ++ encHandle (some h) ++ encMoney q ++ encMoney w ++
      encMoney bal
  | .bikeFound b d => encBike (some b) ++ encDock (some d)
  | .cardRetired s g bal c =>
    encSerial (some s) ++ le 1 (if g then 1 else 0) ++ encMoney bal ++ le 1 c
  | .holdExpired s b i => encSerial s ++ encBike (some b) ++ encStation (some i)
  | .reservationMoved s b b' i =>
    encSerial s ++ encBike (some b) ++ encBike (some b') ++ encStation (some i)
  | .reservationLost s b i => encSerial s ++ encBike (some b) ++ encStation (some i)
  | .ticketOpened id sub c st rep n k served =>
    encHandle (some id) ++ encSubject (some sub) ++ encCause (some c) ++ le 1 st.toCode ++
      encSerial rep ++ le 1 n ++ encFlag k ++ encFlag served
  | .ticketWaiting sub c p n k =>
    encSubject (some sub) ++ encCause (some c) ++ le 2 p ++ le 1 n ++ encFlag k
  | .faultMerged sub c t p n k =>
    encSubject (some sub) ++ encCause (some c) ++ encHandle t ++ encCause p ++ le 1 n ++ encFlag k
  | .loadLapsed v d b => encStation (some v) ++ encDock (some d) ++ encBike (some b)
  | .loadCancelled v ld b d =>
    encStation (some v) ++ encDock (some ld) ++ encBike (some b) ++ encDock (some d)
  | .claimLapsed v i t => encStation (some v) ++ encStation (some i) ++ encClock t
  | .indicator i w p u o n fl dir t =>
    encStation (some i) ++ le 2 w.toNat ++ le 2 p.toNat ++ le 1 u ++ le 1 o ++ le 1 n ++ leInt 1 fl ++
      le 1 dir.toCode ++ encOptClock t

end Sys2Proof.Machine
end

