-- ==== Sys2Proof/Machine/Ops.lean ====
section
/-! DEFINITION. The named operations over the record store: reading and writing records, the work in hand,
time, the deadline list, the census, holds and reservations, cards, hires, faults and tickets, claims and
loads. Every rule that changes a record goes through one of these. -/

namespace Sys2Proof.Machine

/-! ## Formatted records (the INIT_FORMAT values of each rule) -/

/-- R91 with R2 and R8: a fault state with nothing in it. -/
def noFault : FaultState := ⟨none, none, 0, false⟩

/-- R2. -/
def formattedBike : Bike := ⟨.uncommissioned, none, none, none, noFault, 0⟩

/-- R8. -/
def formattedDock : Dock := ⟨none, .undefined, .empty, .latched, noFault, none⟩

/-- R11. -/
def formattedStation : Station :=
  ⟨false, 0, 0, ⟨⟨0, 0⟩, ⟨0, 0⟩, ⟨0, 0, 0, 0, 0⟩, ⟨0, 0, 0, 0, 0⟩, 0⟩, ⟨0, 0, 0, 0, 0⟩, 0, .steady, 0#16, none⟩

/-- R49. -/
def formattedHireSlot : HireSlot := ⟨0, none⟩

/-- R92. -/
def formattedTicketSlot : TicketSlot := ⟨0, none⟩

/-- R109. -/
def formattedVan : Van := ⟨false, 0, none, none, none, []⟩

/-- A cause with no option set. -/
def noPolicy : Policy := ⟨false, false, false⟩

/-! ## Reading and writing records -/

def bikeAt (st : Store) (b : Nat) : Bike := readAt formattedBike st.fleet.bikes b
def putBike (st : Store) (b : Nat) (r : Bike) : Store :=
  { st with fleet.bikes := writeAt formattedBike st.fleet.bikes b r }

def dockAt (st : Store) (d : Nat) : Dock := readAt formattedDock st.fleet.docks d
def putDock (st : Store) (d : Nat) (r : Dock) : Store :=
  { st with fleet.docks := writeAt formattedDock st.fleet.docks d r }

def stationAt (st : Store) (i : Nat) : Station := readAt formattedStation st.fleet.stations i
def putStation (st : Store) (i : Nat) (r : Station) : Store :=
  { st with fleet.stations := writeAt formattedStation st.fleet.stations i r }

/-- The card in a slot; a free slot holds none. -/
def cardAt (st : Store) (slot : Nat) : Option Card := readAt none st.cards.cards slot
def putCard (st : Store) (slot : Nat) (c : Option Card) : Store :=
  { st with cards.cards := writeAt none st.cards.cards slot c }

def chainAt (st : Store) (bucket : Nat) : List Nat := readAt [] st.cards.chains bucket
def putChain (st : Store) (bucket : Nat) (c : List Nat) : Store :=
  { st with cards.chains := writeAt [] st.cards.chains bucket c }

def hireSlotAt (st : Store) (slot : Nat) : HireSlot := readAt formattedHireSlot st.hires slot
def putHireSlot (st : Store) (slot : Nat) (r : HireSlot) : Store :=
  { st with hires := writeAt formattedHireSlot st.hires slot r }

def ticketSlotAt (st : Store) (slot : Nat) : TicketSlot := readAt formattedTicketSlot st.faults.tickets slot
def putTicketSlot (st : Store) (slot : Nat) (r : TicketSlot) : Store :=
  { st with faults.tickets := writeAt formattedTicketSlot st.faults.tickets slot r }

def vanAt (st : Store) (v : Nat) : Van := readAt formattedVan st.vans v
def putVan (st : Store) (v : Nat) (r : Van) : Store :=
  { st with vans := writeAt formattedVan st.vans v r }

/-- R90: the options of a cause. -/
def policyOf (set : Settings) (c : Cause) : Policy := readAt noPolicy set.policies c.toCode

/-! ## The work in hand -/

/-- A piece of work: the settings it reads, the store as it stands in the work, the notices it has raised
in order, and the stations it concerns (R13, R138). -/
structure Work where
  set : Settings
  store : Store
  notices : List Notice
  touched : List Nat
deriving DecidableEq, Repr

def Work.raiseNotice (w : Work) (n : Notice) : Work := { w with notices := w.notices ++ [n] }

/-- The station of the dock that a place names. -/
def placeStation (st : Store) : Option Place → List Nat
  | some (.dock d) => (dockAt st d).station.toList
  | _ => []

/-- Writes a bike record; the stations of the docks it stood and stands in are concerned (R13). -/
def Work.setBike (w : Work) (b : Nat) (r : Bike) : Work :=
  { w with
    store := putBike w.store b r
    touched := w.touched ++ placeStation w.store (bikeAt w.store b).place ++ placeStation w.store r.place }

/-- Writes a dock record; the station it was in and the one it is in are concerned (R13). -/
def Work.setDock (w : Work) (d : Nat) (r : Dock) : Work :=
  { w with
    store := putDock w.store d r
    touched := w.touched ++ (dockAt w.store d).station.toList ++ r.station.toList }

/-- Writes a station record; the station is concerned. -/
def Work.setStation (w : Work) (i : Nat) (r : Station) : Work :=
  { w with store := putStation w.store i r, touched := w.touched ++ [i] }

/-- Writes the claimed-by field of a station, which no census or indicator reads (R119, R138). -/
def Work.setClaimedBy (w : Work) (i : Nat) (v : Option Nat) : Work :=
  { w with store := putStation w.store i { stationAt w.store i with claimedBy := v } }

def Work.setCard (w : Work) (slot : Nat) (c : Card) : Work :=
  { w with store := putCard w.store slot (some c) }

def Work.setVan (w : Work) (v : Nat) (r : Van) : Work := { w with store := putVan w.store v r }

def Work.setHireSlot (w : Work) (slot : Nat) (r : HireSlot) : Work :=
  { w with store := putHireSlot w.store slot r }

def Work.setTicketSlot (w : Work) (slot : Nat) (r : TicketSlot) : Work :=
  { w with store := putTicketSlot w.store slot r }

def Work.setWaiting (w : Work) (l : List Subject) : Work := { w with store.faults.waiting := l }

def Work.setDeadlines (w : Work) (l : List Entry) : Work := { w with store.timer.deadlines := l }

def Work.setHeldCount (w : Work) (n : Nat) : Work := { w with store.fleet.reservationsHeld := n }

/-- R143: the clock value the work reads, 0 while the clock is UNSET (read there by no rule: R144). -/
def Work.now (w : Work) : Nat := w.store.timer.clock.getD 0

/-! ## Time -/

/-- R1: local time. -/
def localTime (set : Settings) (t : Nat) : Nat := ((t : Int) + set.localOffset).toNat

/-- R1: the minute of day. -/
def minuteOfDay (set : Settings) (t : Nat) : Nat := localTime set t % 86400 / 60

/-- R1: the day number. -/
def dayNumber (set : Settings) (t : Nat) : Nat := localTime set t / 86400

/-- A due time: a start plus a span, held at the greatest clock value (R50, R117, R134, R142). -/
def dueAt (start span : Nat) : Nat := min (start + span) Config.clockMax

/-! ## The deadline list (R147) -/

/-- Adds an entry behind every entry due no later and ahead of every entry due later. -/
def insertEntry (e : Entry) : List Entry → List Entry
  | [] => [e]
  | x :: t => if x.due ≤ e.due then x :: insertEntry e t else e :: x :: t

/-- Removes the entry of a kind and owner, wherever it stands. -/
def dropEntry (what : Deadline) (l : List Entry) : List Entry := l.filter (fun e => e.what ≠ what)

/-- Gives the HOLD_EXPIRY entry of one bike to another, its due time and place kept. -/
def reownHold (old new : Nat) (l : List Entry) : List Entry :=
  l.map (fun e => if e.what = .holdExpiry old then { e with what := .holdExpiry new } else e)

def Work.addEntry (w : Work) (what : Deadline) (due : Nat) : Work :=
  w.setDeadlines (insertEntry ⟨what, due⟩ w.store.timer.deadlines)

def Work.removeEntry (w : Work) (what : Deadline) : Work :=
  w.setDeadlines (dropEntry what w.store.timer.deadlines)

/-- The due time of the entry of a kind and owner. -/
def dueOf (st : Store) (what : Deadline) : Option Nat :=
  (st.timer.deadlines.find? (fun e => e.what = what)).map Entry.due

/-- R149: an entry is due when the clock is set and its due time is not later. -/
def isDue (tm : Timer) (e : Entry) : Bool :=
  match tm.clock with
  | none => false
  | some t => decide (e.due ≤ t)

/-- R149: the head of the deadline list, when it is due. -/
def dueHead (st : Store) : Option Entry :=
  match st.timer.deadlines with
  | [] => none
  | e :: _ => if isDue st.timer e then some e else none

/-! ## Usable bikes and the census -/

/-- R91: whether a fault state blocks its subject. -/
def blocked (f : FaultState) : Bool := f.ticket.isSome || f.pending.isSome || f.condemned

/-- R9: the service of a dock by its station and fault state; a RETIRED dock stays RETIRED. -/
def serviceOf (r : Dock) : Service :=
  match r.station with
  | none => .undefined
  | some _ =>
    if r.service = .retired then .retired else if blocked r.fault then .outOfService else .inService

/-- R6: whether the dock that a place names is IN_SERVICE. -/
def placeInService (st : Store) : Option Place → Bool
  | some (.dock d) => decide ((dockAt st d).service = .inService)
  | _ => false

/-- R6: a usable bike. -/
def usable (st : Store) (b : Nat) : Bool :=
  let r := bikeAt st b
  decide (r.state = .docked) && placeInService st r.place && !blocked r.fault && r.heldFor.isNone

/-- R11, R15: the docks of a station's range, lowest first. -/
def rangeDocks (first count : Nat) : List Nat := List.range' first count

/-- R52, R67, R70: of two candidates in order of dock, the one with the fewer rides, the earlier on a tie. -/
def fewerRides (st : Store) (best : Option Nat) (b : Nat) : Option Nat :=
  match best with
  | none => some b
  | some x => if (bikeAt st b).rides < (bikeAt st x).rides then some b else some x

/-- The usable bike in a dock. -/
def usableIn (st : Store) (d : Nat) : Option Nat :=
  match (dockAt st d).content with
  | .bike b => if usable st b then some b else none
  | _ => none

/-- R52, R67, R70: the usable bike of a station with the fewest rides since service, ties going to the
lowest-numbered dock. -/
def chooseUsable (st : Store) (i : Nat) : Option Nat :=
  let r := stationAt st i
  ((rangeDocks r.firstDock r.dockCount).filterMap (usableIn st)).foldl (fewerRides st) none

/-- R12: whether a dock counts in O, and in E. -/
def countsO (r : Dock) : Bool := decide (r.service = .outOfService) || decide (r.service = .retired)
def countsE (r : Dock) : Bool :=
  decide (r.service = .inService) && decide (r.content = .empty) && decide (r.latch = .latched)

/-- R12: whether a dock counts in H, in U, and in F. -/
def countsH (st : Store) (r : Dock) : Bool :=
  match r.content with
  | .bike b => decide ((bikeAt st b).state = .docked) && (bikeAt st b).heldFor.isSome
  | _ => false
def countsU (st : Store) (r : Dock) : Bool :=
  match r.content with
  | .bike b => usable st b
  | _ => false
def countsF (st : Store) (r : Dock) : Bool :=
  match r.content with
  | .bike b =>
    decide ((bikeAt st b).state = .docked) && (bikeAt st b).heldFor.isNone && !usable st b
  | .unidentified => true
  | .empty => false

/-- R12: the census derived from the docks of a range. -/
def deriveCensus (st : Store) (first count : Nat) : Census :=
  let docks := (rangeDocks first count).map (dockAt st)
  { u := docks.countP (countsU st)
    f := docks.countP (countsF st)
    e := docks.countP countsE
    o := docks.countP countsO
    h := docks.countP (countsH st) }

/-- R132, R133: changes the net flow of a station, saturating, and sets its direction. -/
def Work.bumpFlow (w : Work) (i : Nat) (change : Int) : Work :=
  let r := stationAt w.store i
  let flow := max (-127) (min 127 (r.netFlow + change))
  w.setStation i { r with netFlow := flow, direction := directionOf flow }

/-- R138, R139: the indicator comparison of a station. -/
def Work.compareIndicator (w : Work) (i : Nat) : Work :=
  let r := stationAt w.store i
  let word := indicatorWord r
  if word = r.lastWord then w
  else
    { w with store := putStation w.store i { r with lastWord := word } }.raiseNotice
      (.indicator i word r.lastWord r.census.u r.census.o r.dockCount r.netFlow r.direction
        w.store.timer.clock)

/-- R13, R138: brings the census of a concerned station to its derived value and makes the comparison. -/
def Work.settleStation (w : Work) (i : Nat) : Work :=
  let r := stationAt w.store i
  if r.isDefined && w.touched.contains i then
    let r := { r with census := deriveCensus w.store r.firstDock r.dockCount }
    { w with store := putStation w.store i r }.compareIndicator i
  else w

/-- R13, R138: the end of a piece of work, for each concerned station, lower index first. DEDUCED: which
stations a work concerns (log entry 23). -/
def Work.settle (w : Work) : Work := (List.range Config.stations).foldl Work.settleStation w

/-! ## Cards -/

/-- R32: the bucket of a serial. -/
def bucketOf (serial : Nat) : Nat := (serial % 2 ^ 32 ^^^ serial / 2 ^ 32) % Config.buckets

/-- R32: finds a card by its serial along its chain. -/
def findCard (st : Store) (serial : Nat) : Option Nat :=
  (chainAt st (bucketOf serial)).find? (fun slot => (cardAt st slot).map Card.serial == some serial)

/-- R28: the chain link of a slot, the next slot of the chain it stands in. -/
def linkIn : List Nat → Nat → Option Nat
  | x :: y :: t, slot => if x = slot then some y else linkIn (y :: t) slot
  | _, _ => none

/-- R28, R32: the chain link field of the card in a slot. -/
def chainLink (st : Store) (slot : Nat) : Option Nat :=
  match cardAt st slot with
  | none => none
  | some c => linkIn (chainAt st (bucketOf c.serial)) slot

/-- R32, R33: creates a card in the top slot of the stack, at the tail of its chain; none when the stack is
empty. -/
def createCard (st : Store) (c : Card) : Option (Nat × Store) :=
  match st.cards.free with
  | [] => none
  | slot :: rest =>
    let st := putCard { st with cards.free := rest } slot (some c)
    let k := bucketOf c.serial
    some (slot, putChain st k (chainAt st k ++ [slot]))

/-- R34: removes a card: unlinked from its chain, its slot pushed onto the stack, its record discarded. -/
def removeCard (st : Store) (slot : Nat) : Store :=
  match cardAt st slot with
  | none => st
  | some c =>
    let k := bucketOf c.serial
    let st := putChain st k ((chainAt st k).filter (· ≠ slot))
    putCard { st with cards.free := slot :: st.cards.free } slot none

/-- R29: available funds. -/
def availableFunds (c : Card) : Int := c.balance - c.holdTotal

/-- The serial of the card in a slot. -/
def serialOf (st : Store) (slot : Nat) : Option Nat := (cardAt st slot).map Card.serial

/-- R35: the issuer code and the issuer group. -/
def issuerOf (serial : Nat) : Nat := serial / 2 ^ 40
def issuerGroup (issuer : Nat) : Nat := issuer * 40503 % 65536 / 1024

/-- R35: whether a foreign issuer is accepted. -/
def issuerAccepted (set : Settings) (issuer : Nat) : Bool :=
  set.guestAcceptance && (set.anyIssuer || set.acceptMask.getLsbD (issuerGroup issuer))

/-- R36: what an absent card is to a request that reads its issuer. -/
inductive AbsentCard where
  | home | accepted | notAccepted
deriving DecidableEq, Repr

def absentCard (set : Settings) (serial : Nat) : AbsentCard :=
  if issuerOf serial = set.homeIssuer then .home
  else if issuerAccepted set (issuerOf serial) then .accepted else .notAccepted

/-- R73: the class parameters of a class in the active tariff. -/
def classParams (t : Tariff) : CardClass → ClassParams
  | .member => t.member
  | .casual => t.casual
  | .guest => t.guest
  | .crew => t.crew

/-- R31: the suspension test. -/
def suspensionTest (t : Tariff) (c : Card) : Card :=
  if c.status = .active ∧ c.balance < (classParams t c.cls).floor then { c with status := .suspended } else c

/-- R62, R87: a charge in minor units: the new balance and the write-off. -/
def charge (balance amount : Int) : Int × Int :=
  let b := balance - amount
  if b < -Config.balanceMax then (-Config.balanceMax, -Config.balanceMax - b) else (b, 0)

/-- R38: closes the card of a slot when it has no open hire and is RETIRING or a guest. -/
def Work.closeCardAtLast (w : Work) (slot : Nat) : Work × Bool :=
  match cardAt w.store slot with
  | none => (w, false)
  | some c =>
    if c.openHires = [] ∧ (c.status = .retiring ∨ c.guest = true) then
      ({ w with store := removeCard w.store slot }.raiseNotice
        (.cardRetired c.serial (decide (c.status ≠ CardStatus.retiring)) c.balance c.carry), true)
    else (w, false)

/-! ## Hires -/

/-- The lowest-numbered free slot of the Hire Table (R49). -/
def freeHireSlot (st : Store) : Option Nat :=
  (List.range' 0 Config.hireSlots).find? (fun k => (hireSlotAt st k).hire.isNone)

/-- R49: the hire that an id names, none when the slot is free or the generation differs. -/
def hireAt (st : Store) (h : Handle) : Option Hire :=
  if (hireSlotAt st h.slot).gen = h.gen then (hireSlotAt st h.slot).hire else none

/-- Writes the record of an open hire. -/
def Work.setHire (w : Work) (h : Handle) (r : Hire) : Work :=
  w.setHireSlot h.slot { hireSlotAt w.store h.slot with hire := some r }

/-- R49: frees a slot, its generation rising by 1 from 255 to 0. -/
def Work.freeHire (w : Work) (h : Handle) : Work :=
  w.setHireSlot h.slot ⟨((hireSlotAt w.store h.slot).gen + 1) % 256, none⟩

/-- R29: takes a closed hire from its card: out of the open-hires list, its hold off the hold total. -/
def leaveCard (h : Handle) (hold : Int) (c : Card) : Card :=
  { c with openHires := c.openHires.filter (· ≠ h), holdTotal := c.holdTotal - hold }

def Work.modifyCard (w : Work) (slot : Nat) (f : Card → Card) : Work :=
  match cardAt w.store slot with
  | none => w
  | some c => w.setCard slot (f c)

/-! ## Holds (R65) -/

/-- Sets a reservation in its three places and raises the count. -/
def Work.setHold (w : Work) (slot b i due : Nat) : Work :=
  let w := w.modifyCard slot (fun c => { c with reservation := some ⟨b, i⟩ })
  let w := w.setBike b { bikeAt w.store b with heldFor := some slot }
  (w.addEntry (.holdExpiry b) due).setHeldCount (w.store.fleet.reservationsHeld + 1)

/-- Ends a reservation in its three places and lowers the count (R53, R68, R69). -/
def Work.endHold (w : Work) (slot b : Nat) : Work :=
  let w := w.modifyCard slot (fun c => { c with reservation := none })
  let w := w.setBike b { bikeAt w.store b with heldFor := none }
  (w.removeEntry (.holdExpiry b)).setHeldCount (w.store.fleet.reservationsHeld - 1)

/-- R70: moves the reservation of the card in `slot`, whose bike `b` has lost its hold, or ends it. -/
def Work.moveHold (w : Work) (slot b : Nat) : Work :=
  match cardAt w.store slot with
  | none => w
  | some c =>
    match c.reservation with
    | none => w
    | some r =>
      match chooseUsable w.store r.station with
      | some b' =>
        let w := w.setCard slot { c with reservation := some ⟨b', r.station⟩ }
        let w := w.setBike b' { bikeAt w.store b' with heldFor := some slot }
        (w.setDeadlines (reownHold b b' w.store.timer.deadlines)).raiseNotice
          (.reservationMoved (some c.serial) b b' r.station)
      | none =>
        let w := w.setCard slot { c with reservation := none }
        ((w.removeEntry (.holdExpiry b)).setHeldCount (w.store.fleet.reservationsHeld - 1)).raiseNotice
          (.reservationLost (some c.serial) b r.station)

/-- R7: a bike that no longer qualifies loses its hold, if it was held. -/
def Work.unhold (w : Work) (b : Nat) : Work :=
  match (bikeAt w.store b).heldFor with
  | none => w
  | some slot => (w.setBike b { bikeAt w.store b with heldFor := none }).moveHold slot b

/-! ## Faults (R94 to R97) -/

/-- The lowest-numbered free slot of the ticket table (R92). -/
def freeTicketSlot (st : Store) : Option Nat :=
  (List.range' 0 Config.ticketSlots).find? (fun k => (ticketSlotAt st k).ticket.isNone)

/-- R92: the ticket that an id names, none when the slot is free or the generation differs. -/
def ticketAt (st : Store) (h : Handle) : Option Ticket :=
  if (ticketSlotAt st h.slot).gen = h.gen then (ticketSlotAt st h.slot).ticket else none

/-- The fault state of a subject (R91). -/
def faultOf (st : Store) : Subject → FaultState
  | .bike b => (bikeAt st b).fault
  | .dock d => (dockAt st d).fault

/-- Writes the fault state of a subject; the service of a dock follows by R9. -/
def Work.setFault (w : Work) (sub : Subject) (f : FaultState) : Work :=
  match sub with
  | .bike b => w.setBike b { bikeAt w.store b with fault := f }
  | .dock d =>
    let r := { dockAt w.store d with fault := f }
    w.setDock d { r with service := serviceOf r }

/-- R94 step 1: whether the subject's state or service is RETIRED. -/
def isRetired (st : Store) : Subject → Bool
  | .bike b => decide ((bikeAt st b).state = .retired)
  | .dock d => decide ((dockAt st d).service = .retired)

/-- R97: the state of a ticket opened on a subject. -/
def openingState (st : Store) : Subject → TicketState
  | .dock _ => .opened
  | .bike b =>
    match (bikeAt st b).state with
    | .inVan => .collected
    | .workshop => .inWorkshop
    | _ => .opened

/-- The result of raising a fault (R94, R101): `waiting` and `mergedPending` carry the cause waiting and
the position on the waiting list from 1. -/
inductive FaultResult where
  | none
  | opened (id : Handle)
  | waiting (cause : Cause) (position : Nat)
  | mergedTicket (id : Handle)
  | mergedPending (cause : Cause) (position : Nat)
  | notRaised
deriving DecidableEq, Repr

/-- R107: the position of a subject on the waiting list, from 1 at the head, 0 when it is not on it. -/
def waitingPosition (st : Store) (sub : Subject) : Nat :=
  if st.faults.waiting.contains sub then st.faults.waiting.idxOf sub + 1 else 0

/-- R90: the strike limit of a subject's kind. -/
def strikeLimit (set : Settings) : Subject → Nat
  | .bike _ => set.bikeStrikeLimit
  | .dock _ => set.dockStrikeLimit

/-- R95: the strike rule and the condemnation test. -/
def countStrike (set : Settings) (sub : Subject) (c : Cause) (f : FaultState) : FaultState :=
  if (policyOf set c).countsStrike then
    let n := min (f.strikes + 1) 15
    { f with
      strikes := n
      condemned := f.condemned || (decide (strikeLimit set sub ≤ n) && (policyOf set c).permanent) }
  else f

/-- R94 steps 2 and 3: merges the fault, opens a ticket, or sets a pending cause. -/
def Work.placeFault (w : Work) (sub : Subject) (c : Cause) (rep : Option Nat) :
    Work × FaultState × FaultResult :=
  let f := faultOf w.store sub
  match f.ticket, f.pending with
  | some id, _ => (w, f, .mergedTicket id)
  | none, some p => (w, f, .mergedPending p (waitingPosition w.store sub))
  | none, none =>
    match freeTicketSlot w.store with
    | some slot =>
      let gen := (ticketSlotAt w.store slot).gen
      let t : Ticket := ⟨sub, c, openingState w.store sub, w.store.timer.clock, rep⟩
      (w.setTicketSlot slot ⟨gen, some t⟩, { f with ticket := some ⟨slot, gen⟩ }, .opened ⟨slot, gen⟩)
    | none =>
      let l := w.store.faults.waiting ++ [sub]
      (w.setWaiting l, { f with pending := some c }, .waiting c l.length)

/-- R96: the hold that a fault on a subject ends or moves: that of the bike, or of the bike in the dock. -/
def Work.unholdSubject (w : Work) : Subject → Work
  | .bike b => w.unhold b
  | .dock d =>
    match (dockAt w.store d).content with
    | .bike b => w.unhold b
    | _ => w

/-- R96: the notice of a raised fault. -/
def Work.faultNotice (w : Work) (sub : Subject) (c : Cause) (rep : Option Nat) (f : FaultState) :
    FaultResult → Work
  | .opened id =>
    w.raiseNotice (.ticketOpened id sub c (openingState w.store sub) rep f.strikes f.condemned false)
  | .waiting _ n => w.raiseNotice (.ticketWaiting sub c n f.strikes f.condemned)
  | .mergedTicket id => w.raiseNotice (.faultMerged sub c (some id) none f.strikes f.condemned)
  | .mergedPending p _ => w.raiseNotice (.faultMerged sub c none (some p) f.strikes f.condemned)
  | .none => w
  | .notRaised => w

/-- R94: raises a fault on a subject with a cause, and a reporter serial for B_REPORTED. -/
def Work.raiseFault (w : Work) (sub : Subject) (c : Cause) (rep : Option Nat) : Work × FaultResult :=
  if isRetired w.store sub then (w, .notRaised)
  else
    let (w, f, r) := w.placeFault sub c rep
    let f := countStrike w.set sub c f
    let w := (w.setFault sub f).unholdSubject sub
    (w.faultNotice sub c rep f r, r)

/-- R97: sets the state of a bike's ticket, if it has one. -/
def Work.moveTicket (w : Work) (b : Nat) (s : TicketState) : Work :=
  match (bikeAt w.store b).fault.ticket with
  | none => w
  | some id =>
    match ticketAt w.store id with
    | none => w
    | some t => w.setTicketSlot id.slot { ticketSlotAt w.store id.slot with ticket := some { t with state := s } }

/-! ## Closing a ticket (R98 to R100) -/

/-- R98: a condemned subject retires. -/
def Work.retire (w : Work) (sub : Subject) : Work :=
  match sub with
  | .bike b =>
    let r := bikeAt w.store b
    let w := w.setBike b { r with state := .retired, place := none }
    match r.state, r.place with
    | .docked, some (.dock d) =>
      w.setDock d { dockAt w.store d with content := .unidentified, latch := .latched, lastLapse := none }
    | _, _ => w
  | .dock d => w.setDock d { dockAt w.store d with service := .retired }

/-- R100: serves the head of the waiting list; gives the ticket opened and its subject. -/
def Work.serve (w : Work) : Work × Option (Handle × Subject) :=
  match w.store.faults.waiting with
  | [] => (w, none)
  | sub :: rest =>
    let f := faultOf w.store sub
    match freeTicketSlot w.store, f.pending with
    | some slot, some c =>
      let gen := (ticketSlotAt w.store slot).gen
      let st := openingState w.store sub
      let w := w.setWaiting rest
      let w := w.setTicketSlot slot ⟨gen, some ⟨sub, c, st, w.store.timer.clock, none⟩⟩
      let w := w.setFault sub { f with ticket := some ⟨slot, gen⟩, pending := none }
      (w.raiseNotice (.ticketOpened ⟨slot, gen⟩ sub c st none f.strikes f.condemned true),
        some (⟨slot, gen⟩, sub))
    | _, _ => (w, none)

/-- What R99 leaves for the response of a closing request. -/
structure Closing where
  subject : Subject
  cause : Cause
  retired : Bool
  served : Option (Handle × Subject)
deriving DecidableEq, Repr

/-- R99 step 1: the overhaul of a subject. -/
def Work.overhaul (w : Work) (sub : Subject) : Work :=
  let w := w.setFault sub { faultOf w.store sub with strikes := 0 }
  match sub with
  | .bike b => w.setBike b { bikeAt w.store b with rides := 0 }
  | .dock _ => w

/-- R99: closes the ticket `t`, whose id is `id`. -/
def Work.closeTicket (w : Work) (id : Handle) (t : Ticket) (overhaul : Bool) : Work × Closing :=
  let w := if overhaul then w.overhaul t.subject else w
  let f := { faultOf w.store t.subject with ticket := none }
  let w := w.setTicketSlot id.slot ⟨((ticketSlotAt w.store id.slot).gen + 1) % 256, none⟩
  let w := w.setFault t.subject f
  let w := if f.condemned then w.retire t.subject else w
  let (w, served) := w.serve
  (w, ⟨t.subject, t.cause, f.condemned, served⟩)

/-! ## Vans (R110, R117, R126) -/

/-- R110: the free places of a van. -/
def freePlaces (r : Van) : Nat :=
  r.capacity - r.manifest.length - (if r.load.isSome then 1 else 0)

/-- R117: sets a claim of van `v` on station `i` in its three places. -/
def Work.setClaim (w : Work) (v i : Nat) : Work :=
  let due := dueAt w.now w.set.claimDuration
  let w := w.setVan v { vanAt w.store v with claim := some ⟨i, due⟩ }
  (w.setClaimedBy i (some v)).addEntry (.claimExpiry v) due

/-- R117: clears the claim of van `v`, if it holds one, in its three places; gives the station. -/
def Work.clearClaim (w : Work) (v : Nat) : Work × Option Nat :=
  match (vanAt w.store v).claim with
  | none => (w, none)
  | some c =>
    let w := w.setVan v { vanAt w.store v with claim := none }
    ((w.setClaimedBy c.station none).removeEntry (.claimExpiry v), some c.station)

/-- R126, R127: ends the load of van `v` at dock `d`: the bike DOCKED there again, the latch LATCHED. -/
def Work.endLoad (w : Work) (v d b : Nat) : Work :=
  let w := w.setBike b { bikeAt w.store b with state := .docked }
  let w := w.setDock d { dockAt w.store d with latch := .latched }
  w.setVan v { vanAt w.store v with load := none }

/-- R110, R129: a bike leaves a manifest, the order of the others kept. -/
def Work.leaveManifest (w : Work) (v b : Nat) : Work :=
  w.setVan v { vanAt w.store v with manifest := (vanAt w.store v).manifest.filter (· ≠ b) }

/-! ## Closing a hire without a charge (R55, R56) -/

/-- R55 steps 1 to 4, which R56 shares: the hire leaves its card and its slot, the bike is DOCKED in its
dock again and the latch LATCHED. -/
def Work.closeRelease (w : Work) (h : Handle) (r : Hire) : Work :=
  let w := w.modifyCard r.card (leaveCard h r.hold)
  let w := w.setBike r.bike { bikeAt w.store r.bike with hire := none, state := .docked }
  let w := w.setDock r.origin { dockAt w.store r.origin with latch := .latched }
  w.freeHire h

end Sys2Proof.Machine
end

