-- ==== Sys2Proof/Machine/Fare.lean ====
section
/-! DEFINITION. The fare computation (R74, R75, R80 to R88). -/

namespace Sys2Proof.Machine

/-- R74: the fare past knot (p, v), along the knots that follow it; the slope of the last segment is
carried on past the last knot. -/
def curveFrom (p v : Nat) : List Knot → Nat → Nat
  | [], _ => v
  | k :: rest, x =>
    if x < k.pos then v + (x - p) * (k.value - v) / (k.pos - p)
    else if rest = [] then k.value + (x - k.pos) * (k.value - v) / (k.pos - p)
    else curveFrom k.pos k.value rest x

/-- R74: the fare that a curve gives for `x` minutes, saturating. -/
def curveFare (curve : List Knot) (x : Nat) : Nat :=
  match curve with
  | [] => 0
  | k :: rest => min (curveFrom k.pos k.value rest x) Config.fareMax

/-- R75: the step of a time. -/
def stepOf (set : Settings) (t : Tariff) (time : Nat) : Nat := minuteOfDay set time / t.grid

/-- R75: whether a window covers a step. -/
def covers (w : Window) (s : Nat) : Bool :=
  if w.start < w.stop then decide (w.start ≤ s) && decide (s < w.stop)
  else if w.stop < w.start then decide (w.start ≤ s) || decide (s < w.stop)
  else false

/-- R75: the peak factor of a time, the largest among the windows covering its step, or 64. -/
def peakFactor (set : Settings) (t : Tariff) (time : Nat) : Nat :=
  ((t.windows.filter (fun w => covers w (stepOf set t time))).map Window.factor).foldl max 64

/-- R75: the peak test of the current time. -/
def peakTest (set : Settings) (st : Store) : Bool :=
  match st.timer.clock with
  | none => false
  | some now =>
    st.tariff.loaded && st.tariff.active.windows.any (fun w => covers w (stepOf set st.tariff.active now))

/-- The inputs of the fare computation that the card does not hold. -/
structure FareInput where
  start : Nat
  stop : Nat
  cls : CardClass
  accepted : Bool
deriving DecidableEq, Repr

/-- The results of the fare computation. -/
structure Fare where
  minutes : Nat
  before : Nat
  charged : Nat
  minor : Int
  writeOff : Int
  balance : Int
  carry : Nat
  capDay : Nat
  daySpent : Nat
  waived : Bool
deriving DecidableEq, Repr

/-- The least integer not below a / b. -/
def ceilDiv (a b : Nat) : Nat := (a + (b - 1)) / b

/-- R81: the billable minutes of a duration. -/
def billableMinutes (t : Tariff) (d : Nat) : Nat :=
  ceilDiv (ceilDiv (d - t.grace) 60) t.billingStep * t.billingStep

/-- R83, R88: the base fare of a class for the curve minutes. -/
def baseFare (t : Tariff) (cls : CardClass) (minutes : Nat) : Nat :=
  match cls with
  | .member => curveFare t.memberCurve minutes
  | .casual => curveFare t.casualCurve minutes
  | .guest => curveFare t.casualCurve minutes
  | .crew => 0

/-- R82, R83: the fare before the cap. -/
def fareBeforeCap (set : Settings) (t : Tariff) (i : FareInput) (minutes : Nat) : Nat :=
  let f0 := baseFare t i.cls (minutes - (classParams t i.cls).freeMinutes)
  min (f0 * peakFactor set t i.start / 64) Config.fareMax

/-- R80: the result of a waived hire. -/
def waivedFare (c : Card) : Fare := ⟨0, 0, 0, 0, 0, c.balance, c.carry, c.capDay, c.daySpent, true⟩

/-- R80 to R88: the fare computation under the tariff in force. -/
def computeFare (set : Settings) (t : Tariff) (c : Card) (i : FareInput) : Fare :=
  let d := i.stop - i.start
  if i.accepted ∧ d ≤ t.waiverWindow then waivedFare c
  else
    let minutes := billableMinutes t d
    let f1 := fareBeforeCap set t i minutes
    -- R85
    let day := dayNumber set i.stop
    let spent := if c.capDay = day then c.daySpent else 0
    let cap := (classParams t i.cls).dailyCap
    let f2 := if cap = 0 then f1 else min f1 (cap - spent)
    -- R86
    let total := c.carry + f2
    -- R87
    let (balance, writeOff) := charge c.balance (total / 256 : Nat)
    { minutes := minutes, before := f1, charged := f2, minor := (total / 256 : Nat), writeOff := writeOff
      balance := balance, carry := total % 256, capDay := day
      daySpent := min (spent + f2) Config.fareMax, waived := false }

end Sys2Proof.Machine
end

