-- ==== Sys2Proof/Machine/RingOps.lean ====
section
/-! DEFINITION. The hub bus, the rings and the Engine Arbiter: every access to hub memory, the look at a
ring, the grant, the taking of a request from the read of its descriptor to the look after its response, the
STOP of the engine and the reset pin (R154 to R170, R178, R179, R182, R183). -/

namespace Sys2Proof.Machine

/-! ## Hub memory and the bus -/

/-- What a byte of hub memory that nothing has written reads as (DESIGN CHOICE, unsafe: log entry 2). -/
def unwrittenByte : Byte := 0#8

/-- Whether hub memory is in its one form. -/
def Memory.wf (mem : Table Byte) : Bool := canonical unwrittenByte mem

/-- R154: an address is taken mod 2^32. -/
def wrap (a : Nat) : Nat := a % 2 ^ 32

/-- One byte of hub memory. -/
def memByte (mem : Table Byte) (a : Nat) : Byte := readAt unwrittenByte mem (wrap a)

/-- `n` bytes of hub memory from an address, as one number, the first byte least significant. -/
def memRead (mem : Table Byte) (a : Nat) : Nat → Nat
  | 0 => 0
  | n + 1 => (memByte mem a).toNat + 256 * memRead mem (a + 1) n

/-- Hub memory after bytes are stored from an address. -/
def memWrite (mem : Table Byte) (a : Nat) : List Byte → Table Byte
  | [] => mem
  | b :: t => memWrite (writeAt unwrittenByte mem (wrap a) b) (a + 1) t

/-- Hub memory after the hub processor's own stores. -/
def hubStores (mem : Table Byte) : List Host.Cell → Table Byte
  | [] => mem
  | (a, b) :: t => hubStores (writeAt unwrittenByte mem (wrap a) b) t

/-- The start of a command: the hub processor's stores are made and the bus's answers stand ready. -/
def beginCommand (s : State) (h : HubInput) : State :=
  { s with hub := ⟨hubStores s.hub.mem h.writes, h.answers⟩ }

/-- R182: the bus's answer to the next access. Once the reset pin is asserted it is the answer to every access
(R179). -/
def busAnswer (s : State) : BusAnswer × State :=
  match s.hub.answers with
  | [] => (.ok, s)
  | .ok :: rest => (.ok, { s with hub.answers := rest })
  | .error n :: rest => (.error n, { s with hub.answers := rest })
  | .reset n :: _ => (.reset n, { s with hub.answers := [.reset 0] })

/-- A read of `n` bytes from hub memory; none on a bus error or a reset. -/
def busRead (s : State) (a n : Nat) : Option Nat × State :=
  match busAnswer s with
  | (.ok, s) => (some (memRead s.hub.mem a n), s)
  | (.error _, s) => (none, s)
  | (.reset _, s) => (none, s)

/-- A read of an own flag: bit 0 of byte 0 of a descriptor (R183); none on a bus error or a reset. -/
def busOwn (s : State) (a : Nat) : Option Bool × State :=
  match busRead s a 1 with
  | (some v, s) => (some (v % 2 == 1), s)
  | (none, s) => (none, s)

/-- Hub memory after a write of which `n` bytes were made, where the write is made in part (`partly`). -/
def storePart (s : State) (a : Nat) (bytes : List Byte) (partly : Bool) (n : Nat) : State :=
  if partly then { s with hub.mem := memWrite s.hub.mem a (bytes.take n) } else s

/-- A write of bytes to hub memory, false on a bus error or a reset. What part of them such a write stored,
`partly` says: none for a descriptor, the bytes before it for a result block (R183). -/
def busWrite (s : State) (a : Nat) (bytes : List Byte) (partly : Bool) : Bool × State :=
  match busAnswer s with
  | (.ok, s) => (true, { s with hub.mem := memWrite s.hub.mem a bytes })
  | (.error n, s) => (false, storePart s a bytes partly n)
  | (.reset n, s) => (false, storePart s a bytes partly n)

/-! ## Rings -/

/-- R154: the address of descriptor `i` of a ring. -/
def slotAddress (p : RingPlace) (i : Nat) : Nat := wrap (p.base + 32 * i)

/-- R154: an index advances modulo the size of its ring. -/
def advance (p : RingPlace) (i : Nat) : Nat := (i + 1) % p.size

def setRing (s : State) (n : Nat) (r : Ring) : State :=
  { s with rings.rings := writeAt formattedRing s.rings.rings n r }

def setRingState (s : State) (n : Nat) (st : RingState) : State :=
  setRing s n { ringAt s n with state := st }

/-- A bus error on a look, a descriptor or a response: the ring FAILED and RING_FAILED set. -/
def failRing (s : State) (n : Nat) : State := raiseEvent (setRingState s n .failed) ringFailed

/-- R156, R164: whether the response slot is the outstanding reserved slot of a bulk load. -/
def slotReserved (s : State) (n : Nat) : Bool :=
  n == 3 && (match s.rings.reserved with
    | some r => r.index == (ringAt s n).responseIndex
    | none => false)

/-- R156: a look at request ring `n`. -/
def look (s : State) (n : Nat) : State :=
  let r := ringAt s n
  match busOwn s (slotAddress r.request r.head) with
  | (none, s) => failRing s n
  | (some false, s) => setRingState s n .idle
  | (some true, s) =>
    if slotReserved s n then setRingState s n .blocked
    else
      match busOwn s (slotAddress r.response r.responseIndex) with
      | (none, s) => failRing s n
      | (some free, s) => setRingState s n (if free then .ready else .blocked)

/-- R159: makes a ring OFF and clears its stop-pending flag; the indexes are kept. -/
def turnOff (s : State) (n : Nat) : State :=
  setRing s n { ringAt s n with state := .off, stopPending := false }

/-- R159, R178: the end of a grant to ring `n`: OFF when its stop-pending flag is set or an engine STOP is
pending, else `next`. DEDUCED: however the grant ends (log entry 20). -/
def endGrant (s : State) (n : Nat) (next : State → State) : State :=
  if (ringAt s n).stopPending || s.engine.stopPending then turnOff s n else next s

/-- R163: the end of a grant that looks again. -/
def lookAgain (s : State) (n : Nat) : State := endGrant s n (fun s => look s n)

/-! ## Ring commands (R158, R159) -/

/-- R155: request rings are 0 to 3. -/
def requestRings : Nat := 4

/-- START: the indexes become 0, the places of the settings come into force (R154), and a look is made. -/
def startRing (s : State) (n : Nat) : State :=
  if n < requestRings ∧ (ringAt s n).state = .off ∧ s.engine.state = .running then
    look (setRing s n
      { ringAt s n with
        head := 0, responseIndex := 0
        request := readAt ⟨0, 0⟩ s.settings.requestRings n
        response := readAt ⟨0, 0⟩ s.settings.responseRings n }) n
  else s

/-- KICK. -/
def kickRing (s : State) (n : Nat) : State :=
  if n < requestRings ∧ ((ringAt s n).state = .idle ∨ (ringAt s n).state = .blocked) then look s n else s

/-- RESUME. -/
def resumeRing (s : State) (n : Nat) : State :=
  if n < requestRings ∧ ((ringAt s n).state = .blocked ∨ (ringAt s n).state = .failed) then look s n else s

/-- STOP of a ring. -/
def stopRing (s : State) (n : Nat) : State :=
  if n < requestRings then
    match (ringAt s n).state with
    | .off => s
    | .ready =>
      if s.rings.inHand = some n then setRing s n { ringAt s n with stopPending := true }
      else turnOff s n
    | .idle => turnOff s n
    | .blocked => turnOff s n
    | .failed => turnOff s n
  else s

/-- R178 step 4: every request ring OFF. -/
def turnAllOff (s : State) : State := (List.range requestRings).foldl turnOff s

/-- R178 steps 4 to 6: the rings OFF, the counts 0, the engine STOPPED, STOP_DONE. -/
def haltEngine (s : State) : State :=
  let s := turnAllOff s
  raiseEvent { s with passOver := [], engine := { s.engine with state := .stopped, stopPending := false } } stopDone

/-- R173, R178: STOP of the engine, taken in RUNNING with no STOP pending. With no work in hand and no load in
flight it passes at once to its end. DEDUCED: that the rings become OFF there too (log entry 20). -/
def stopEngine (s : State) : State :=
  if s.engine.state = .running ∧ s.engine.stopPending = false then
    if s.rings.inHand = none ∧ s.bulk = none then haltEngine s else { s with engine.stopPending := true }
  else s

/-! ## The Engine Arbiter (R167 to R170) -/

/-- R167: the requesters. -/
inductive Requester where
  | ring (n : Nat)
  | timer
  | bulk
deriving DecidableEq, Repr

/-- R167: the requesters in fixed priority order. -/
def requesters : List Requester := [.ring 0, .timer, .ring 1, .ring 2, .ring 3, .bulk]

/-- The place of a requester in the fixed priority order, under which its pass-over count stands. -/
def Requester.priority : Requester → Nat
  | .ring 0 => 0
  | .timer => 1
  | .ring n => n + 1
  | .bulk => 5

/-- R155, R167: whether a requester requests. -/
def requesting (s : State) : Requester → Bool
  | .ring n => decide ((ringAt s n).state = .ready) && decide (s.rings.inHand ≠ some n)
  | .timer => decide (s.engine.state = .running) && (dueHead s.store).isSome
  | .bulk => s.bulk.isSome

def passOverOf (s : State) (r : Requester) : Nat := readAt 0 s.passOver r.priority

def setPassOver (s : State) (r : Requester) (n : Nat) : State :=
  { s with passOver := writeAt 0 s.passOver r.priority n }

/-- R169: the requester that the next grant goes to; none while no grant is made (R167). -/
def arbiterChoice (s : State) : Option Requester :=
  if s.engine.state = .running ∧ s.engine.stopPending = false then
    match requesters.find? (fun r => requesting s r && passOverOf s r == Config.passOverMax) with
    | some r => some r
    | none => requesters.find? (requesting s)
  else none

/-- R168: the pass-over count of a requester after a grant. -/
def countAfterGrant (s : State) (granted r : Requester) : Nat :=
  if r = granted then 0
  else if requesting s r then min (passOverOf s r + 1) Config.passOverMax else 0

/-- R168: the counts after a grant; they are taken from the requesters as they stand at the grant. -/
def chargeGrant (s : State) (granted : Requester) : State :=
  requesters.foldl (fun t r => setPassOver t r (countAfterGrant s granted r)) s

/-- R168: a requester that has stopped requesting has count 0. -/
def settleCounts (s : State) : State :=
  requesters.foldl (fun t r => if requesting s r then t else setPassOver t r 0) s

/-! ## The reset pin (R179) -/

/-- R179: a request ring after the reset pin. -/
def resetRing (r : Ring) : Ring := { r with state := .off, stopPending := false, head := 0, responseIndex := 0 }

/-- R179: the request rings after the reset pin. -/
def resetRings (s : State) : Table Ring :=
  (List.range requestRings).foldl (fun t n => writeAt formattedRing t n (resetRing (ringAt s n))) []

/-- R179: the clock UNSET and the captured high half 0. -/
def clockCleared (st : Store) : Store := { st with timer := { st.timer with clock := none, captured := 0#16 } }

/-- R179: the part once the reset pin has been asserted, and released unless `stays` is set: it has these values
from the assertion on. The records, the settings and the ring places, which the rule calls unreachable or not in
force, stand as they were (log entry 5). -/
def resetPart (stays : Bool) (s : State) : State :=
  { engine := ⟨.stopped, false, false, .none, stays⟩
    port := { s.port with index := 0#4, setupAddress := 0#32, events := 0#10, enables := 0#10 }
    settings := s.settings
    store := clockCleared s.store
    bulk := none
    rings := { s.rings with rings := resetRings s, noticeIndex := 0, reserved := none, inHand := none }
    passOver := []
    hub := { s.hub with answers := [] }
    pending := s.pending }

/-- R172, R179: an access to the control port, which is not answered while the reset pin is asserted. The other
commands need no such guard: the engine is then STOPPED, every ring OFF and the clock UNSET, so no grant is made,
no ring command acts and no tick counts. -/
def portAccess (f : State → State) (s : State) : State := if s.engine.resetAsserted then s else f s

/-- R179: whether the reset pin has been asserted within the command. -/
def resetTaken : List BusAnswer → Bool
  | .reset _ :: _ => true
  | _ => false

/-- The end of a command: nothing is in hand, the bus's answers are spent, and counts are settled. A reset taken
in the middle of it ends its work where it stands: of what the work did, hub memory alone can be read afterwards,
and the pin stays asserted until RESET_PIN releases it (R179; log entry 8). -/
def endCommand (s : State) : State :=
  if resetTaken s.hub.answers then resetPart true s
  else settleCounts { s with rings.inHand := none, hub.answers := [] }

/-! ## Notices (R166, R183) -/

/-- Bytes brought to `k` with zeros (R183, Writing). -/
def padTo (k : Nat) (bytes : List Byte) : List Byte :=
  (bytes ++ List.replicate k 0#8).take k

/-- R163, R183: a written descriptor: byte 0 is 0, and the check byte brings the sum of the 32 bytes to 255
mod 256. -/
def sealDescriptor (rest : List Byte) : List Byte :=
  0#8 :: BitVec.ofNat 8 (255 - byteSum 30 (fromBytes rest)) :: rest

/-- R183: the notice descriptor. -/
def noticeBytes (clock : Option Nat) (n : Notice) : List Byte :=
  sealDescriptor
    ([BitVec.ofNat 8 n.kind, if clock.isSome then 1#8 else 0#8] ++ le 4 (clock.getD 0) ++
      padTo 24 n.contents)

/-- R166: drops a notice. -/
def dropNotice (s : State) : State := raiseEvent s noticeLost

/-- R166: writes a notice to the notice ring, or drops it. -/
def writeNotice (s : State) (n : Notice) : State :=
  let a := slotAddress s.rings.notice s.rings.noticeIndex
  match busOwn s a with
  | (none, s) => dropNotice s
  | (some false, s) => dropNotice s
  | (some true, s) =>
    match busWrite s a (noticeBytes s.store.timer.clock n) false with
    | (false, s) => dropNotice s
    | (true, s) =>
      raiseEvent { s with rings.noticeIndex := advance s.rings.notice s.rings.noticeIndex } noticeWritten

/-- R166: writes the notices of a piece of work in order. -/
def writeNotices (s : State) (l : List Notice) : State := l.foldl writeNotice s

/-! ## Responses (R163, R164, R165, R183) -/

/-- What the rule of a code answers: the outcome with its reason, the flags REPORT_IGNORED and
GUEST_ELIGIBLE, and the result record. -/
structure Reply where
  outcome : OutcomeCode
  reason : Nat := 0
  reportIgnored : Bool := false
  guestEligible : Bool := false
  result : List Byte := []
deriving DecidableEq, Repr

/-- R183: the flags byte of a response. -/
def responseFlags (r : Reply) (truncated blockWritten : Bool) : Nat :=
  (if truncated then 1 else 0) + (if blockWritten then 2 else 0) + (if r.reportIgnored then 4 else 0) +
    (if r.guestEligible then 8 else 0)

/-- R162, R183: the response descriptor. -/
def responseBytes (code : Byte) (tag : BitVec 32) (r : Reply) (truncated blockWritten : Bool) : List Byte :=
  sealDescriptor
    ([code, BitVec.ofNat 8 r.outcome.toCode] ++ le 4 tag.toNat ++
      [BitVec.ofNat 8 r.reason, BitVec.ofNat 8 (responseFlags r truncated blockWritten)] ++
      le 2 r.result.length ++ padTo 20 r.result)

/-- R183: whether a result record is written to a result block, and whether it is cut to 20 bytes. -/
def wantsBlock (q : Request) (r : Reply) : Bool :=
  decide (20 < r.result.length) && decide (q.block ≠ 0#32)
def isTruncated (q : Request) (r : Reply) : Bool :=
  decide (20 < r.result.length) && decide (q.block = 0#32)

/-- R183: writes the result block, where there is one, before the descriptor; false on a bus error. -/
def writeBlock (s : State) (q : Request) (r : Reply) : Bool × State :=
  if wantsBlock q r then busWrite s q.block.toNat r.result true else (true, s)

/-- R163: writes the result block and the response into the slot at the response index; false on a bus
error on either (R183). -/
def writeResponse (s : State) (n : Nat) (code : Byte) (q : Request) (r : Reply) : Bool × State :=
  match writeBlock s q r with
  | (false, s) => (false, s)
  | (true, s) =>
    let ring := ringAt s n
    busWrite s (slotAddress ring.response ring.responseIndex)
      (responseBytes code q.tag r (isTruncated q r) (wantsBlock q r)) false

/-- R163, R165: the response, the notices, and the end of a grant that took a request. -/
def answer (s : State) (n : Nat) (code : Byte) (q : Request) (r : Reply) (l : List Notice) : State :=
  match writeResponse s n code q r with
  | (true, s) =>
    let s := setRing s n
      { ringAt s n with responseIndex := advance (ringAt s n).response (ringAt s n).responseIndex }
    lookAgain (writeNotices (raiseEvent s (responseWritten n)) l) n
  | (false, s) =>
    let s := writeNotices (raiseEvent s ringFailed) l
    endGrant s n (fun s => setRingState s n .failed)

/-- R164: reserves the slot at the response index for a bulk load and passes over it. -/
def reserveSlot (s : State) (n : Nat) (q : Request) : State :=
  let ring := ringAt s n
  let s := { s with rings.reserved := some ⟨ring.responseIndex, q.tag⟩ }
  lookAgain (setRing s n { ring with responseIndex := advance ring.response ring.responseIndex }) n

/-! ## Taking a request (R160, R161) -/

/-- What carrying out a request leaves: the state, the reply, and the notices raised in order; or the state
with its response waiting for the end of a bulk load. -/
inductive Handled where
  | answered (s : State) (r : Reply) (l : List Notice)
  | reserved (s : State)
deriving DecidableEq, Repr

/-- R161: the four checks of the descriptor, in order; none when it passes them. -/
def descriptorCheck (s : State) (code : Byte) (q : Request) : Option OutcomeCode :=
  if s.settings.checking ∧ descriptorSum code q ≠ 255 then some .descCheck
  else
    match codeEntry code with
    | none => some .badRequest
    | some (ring, size) =>
      if ring ≠ q.ring.val then some .wrongRing
      else if q.length.toNat < size ∨ paramArea < q.length.toNat then some .badLength
      else none

/-- R160 steps 5 and 6: the checks, the rule of the code, the response and the notices. -/
def carryOut (code : Byte) (rule : State → Request → Handled) (q : Request) (s : State) : State :=
  match descriptorCheck s code q with
  | some o => answer s q.ring.val code q { outcome := o } []
  | none =>
    match rule s q with
    | .answered s r l => answer s q.ring.val code q r l
    | .reserved s => reserveSlot s q.ring.val q

/-- R160 steps 1 to 6, the grant being made: the descriptor as read is `q` with code byte `code`. -/
def takeDescriptor (code : Byte) (rule : State → Request → Handled) (q : Request) (s : State) : State :=
  let n := q.ring.val
  let a := slotAddress (ringAt s n).request (ringAt s n).head
  match busRead { s with hub.mem := memWrite s.hub.mem a (descriptorBytes code q) } a 32 with
  | (none, s) => endGrant (raiseEvent s ringFailed) n (fun s => setRingState s n .failed)
  | (some _, s) =>
    if owned q then
      match busWrite s a (writtenBackBytes code q) false with
      | (false, s) => endGrant (raiseEvent s ringFailed) n (fun s => setRingState s n .failed)
      | (true, s) =>
        carryOut code rule q
          (setRing s n { ringAt s n with head := advance (ringAt s n).request (ringAt s n).head })
    else endGrant s n (fun s => setRingState s n .idle)

/-- The ring commands that the hub processor writes while the request is in hand (R159, R178). -/
def meanwhile (q : Request) (s : State) : State :=
  let s := if q.stopRing then stopRing s q.ring.val else s
  if q.stopEngine then stopEngine s else s

/-- Whether the arbiter's next grant goes to the ring of a request (R169). -/
def granted (q : Request) (s : State) : Bool := arbiterChoice s == some (.ring q.ring.val)

/-- The grant of a ring: the counts of R168, the ring in hand. -/
def grantRing (q : Request) (s : State) : State :=
  let s := beginCommand s q.hub
  meanwhile q { chargeGrant s (.ring q.ring.val) with rings.inHand := some q.ring.val }

/-- A grant to a request ring that takes the descriptor `q` with code byte `code`. Where the arbiter's
grant does not go to that ring there is no such grant, and nothing happens (DESIGN CHOICE: log entry 1). -/
def grantRequest (code : Byte) (rule : State → Request → Handled) (q : Request) (s : State) : State :=
  if granted q s then endCommand (takeDescriptor code rule q (grantRing q s)) else s

/-! ## Rules of codes, expiries, and the end of a work -/

/-- A rule over the records: it reads the settings and the store, and answers. -/
def workRule (rule : Work → Request → Reply × Work) (s : State) (q : Request) : Handled :=
  let (r, w) := rule ⟨s.settings, s.store, [], []⟩ q
  let w := w.settle
  .answered { s with store := w.store } r w.notices

/-- R150: a grant to the Timer Unit: the head has left the list when the rule of its kind begins, and the
notices are written at the end of the work. -/
def grantExpiry (hub : HubInput) (rule : Work → Work) (s : State) : State :=
  let s := chargeGrant (beginCommand s hub) .timer
  let w := (rule ⟨s.settings, { s.store with timer.deadlines := s.store.timer.deadlines.tail }, [], []⟩).settle
  endCommand (writeNotices { s with store := w.store } w.notices)

end Sys2Proof.Machine
end

