-- ==== Sys2Proof/Machine/Arrival.lean ====
section
/-! DEFINITION. Arrivals and removals at a dock: BIKE_ARRIVED with its five stages and the settlement
(R21 to R24, R56, R58 to R60, R127, R129) and BIKE_REMOVED (R25 to R27, R54, R125). -/

namespace Sys2Proof.Machine

/-- A refusal: the outcome with its reason, and the work as it was (R162). -/
def refuse (w : Work) (o : OutcomeCode) (reason : Nat := 0) : Reply × Work :=
  ({ outcome := o, reason := reason }, w)

/-! ## The end of a release or a load by an arrival -/

/-- R56: the release of a RELEASING bike is cancelled by an arrival at dock `d`. -/
def Work.cancelRelease (w : Work) (b d : Nat) : Work :=
  match (bikeAt w.store b).hire with
  | none => w
  | some h =>
    match hireAt w.store h with
    | none => w
    | some r =>
      let serial := serialOf w.store r.card
      let w := (w.closeRelease h r).removeEntry (.releaseWindow h)
      ((w.raiseNotice (.releaseCancelled h serial b r.origin d)).closeCardAtLast r.card).1

/-- The van whose load in progress names a dock (R10). -/
def loadingVan (st : Store) (d : Nat) : Option Nat :=
  (List.range Config.vans).find? (fun v => (vanAt st v).load == some d)

/-- R127: the load of a LOADING bike is cancelled by an arrival at dock `d`. -/
def Work.cancelLoad (w : Work) (b d : Nat) : Work :=
  match (bikeAt w.store b).place with
  | some (.dock ld) =>
    match loadingVan w.store ld with
    | none => w
    | some v =>
      ((w.endLoad v ld b).removeEntry (.loadWindow v)).raiseNotice (.loadCancelled v ld b d)
  | _ => w

/-! ## Stage 2 and stage 3 -/

/-- R22: displaces the bike that dock `d` recorded, ending its release or its load first. -/
def Work.displace (w : Work) (x d : Nat) : Work :=
  let w :=
    match (bikeAt w.store x).state with
    | .releasing => w.cancelRelease x d
    | .loading => w.cancelLoad x d
    | _ => w
  let w := w.setBike x { bikeAt w.store x with state := .missing, place := none }
  let w := w.setDock d { dockAt w.store d with content := .empty, latch := .latched, lastLapse := none }
  ((w.unhold x).raiseNotice (.bikeMissing x d none)).raiseFault (.dock d) .dConflict none |>.1

/-- R22: stage 2 of an arrival, on the content that the dock recorded before it. -/
def Work.clearContent (w : Work) (d : Nat) (report : Option Nat) : Work :=
  match (dockAt w.store d).content with
  | .empty => w
  | .unidentified =>
    let w := w.setDock d { dockAt w.store d with content := .empty, lastLapse := none }
    (w.raiseFault (.dock d) .dConflict none).1
  | .bike x => if report = some x then w else w.displace x d

/-- R23: the bike that an arrival has a bike side for, by the report and the state it had before. -/
def bikeSideOf (st : Store) (report : Option Nat) : Option Nat :=
  match report with
  | none => none
  | some b =>
    match (bikeAt st b).state with
    | .uncommissioned => none
    | .retired => none
    | _ => some b

/-- R23: whether the arrival raises D_UNREAD. -/
def raisesUnread (st : Store) (report : Option Nat) : Bool :=
  match report with
  | none => true
  | some b => decide ((bikeAt st b).state = .uncommissioned)

/-- R10, R23: sets the content of a dock with the latch LATCHED; a change of content clears the last
lapse. -/
def Work.putContent (w : Work) (d : Nat) (c : Content) : Work :=
  let r := dockAt w.store d
  w.setDock d
    { r with
      content := c, latch := .latched
      lastLapse := if r.content = c then r.lastLapse else none }

/-! ## Stage 4: the settlement -/

/-- R58: the result of a report test. -/
structure Report where
  accepted : Bool
  reporter : Option Nat
  ignored : Bool
deriving DecidableEq, Repr

/-- No fault-button report. -/
def noReport : Report := ⟨false, none, false⟩

/-- R29: the card's report day rolled to the current day. DEDUCED: the roll stays when the report is ignored
(log entry 17). -/
def rollReports (day : Nat) (c : Card) : Card :=
  if c.reportDay = day then c else { c with reportsToday := 0, reportDay := day }

/-- R58: the report test of an arrival whose bike was ON_HIRE, on the hire's card. -/
def reportTest (set : Settings) (now : Nat) (c : Card) (button : Bool) : Card × Report :=
  if button then
    let c := rollReports (dayNumber set now) c
    if c.reportsToday < set.reportLimit then
      ({ c with reportsToday := min (c.reportsToday + 1) 255 }, ⟨true, some c.serial, false⟩)
    else (c, ⟨false, none, true⟩)
  else (c, noReport)

/-- R60: what the settlement record carries. -/
structure Settlement where
  hire : Handle
  serial : Nat
  bike : Nat
  origin : Nat
  dock : Nat
  state : HireState
  start : Nat
  stop : Nat
  fare : Fare
  status : CardStatus
  retired : Bool
deriving DecidableEq, Repr

/-- R59 steps 2 to 5: the card after its settlement, under the tariff in force. -/
def settledCard (set : Settings) (t : Tariff) (h : Handle) (r : Hire) (c : Card) (i : FareInput) : Card :=
  let fare := computeFare set t c i
  suspensionTest t (leaveCard h r.hold
    { c with balance := fare.balance, carry := fare.carry, capDay := fare.capDay, daySpent := fare.daySpent })

/-- R59: the settlement of hire `h`, whose record is `r` and whose card is `c`, by the arrival of its bike
`b` at dock `d`. -/
def Work.settleHire (w : Work) (b d : Nat) (h : Handle) (r : Hire) (c : Card) (button : Bool) :
    Work × Settlement × Report :=
  let t := w.store.tariff.active
  let (c, rep) := reportTest w.set w.now c button
  let i : FareInput := ⟨r.startTime.getD w.now, w.now, r.cls, rep.accepted⟩
  let after := settledCard w.set t h r c i
  let w := w.setCard r.card after
  let w := ((w.removeEntry (.overdue h)).removeEntry (.lost h)).freeHire h
  let k := bikeAt w.store b
  let w := w.setBike b
    { k with state := .docked, place := some (.dock d), hire := none, rides := min (k.rides + 1) 65535 }
  let (w, gone) := w.closeCardAtLast r.card
  (w, ⟨h, c.serial, b, r.origin, d, r.state, i.start, i.stop, computeFare w.set t c i, after.status, gone⟩,
    rep)

/-- R24: docks a bike in dock `d`. -/
def Work.dockBike (w : Work) (b d : Nat) : Work :=
  w.setBike b { bikeAt w.store b with state := .docked, place := some (.dock d) }

/-- R24: a DOCKED bike that dock `d` reports while it is recorded in another dock. -/
def Work.fromOtherDock (w : Work) (b d : Nat) : Work :=
  match (bikeAt w.store b).place with
  | some (.dock x) =>
    if x = d then w
    else
      let w := w.setDock x { dockAt w.store x with content := .empty, latch := .latched, lastLapse := none }
      let w := (w.raiseFault (.dock x) .dConflict none).1
      (w.dockBike b d).unhold b
  | _ => w.dockBike b d

/-- R24: the bike side of an arrival of bike `b` at dock `d`, by the state the bike had before it. -/
def Work.bikeSide (w : Work) (b d : Nat) (button : Bool) : Work × Option Settlement × Report :=
  let plain : Report := if button then ⟨true, none, false⟩ else noReport
  match (bikeAt w.store b).state with
  | .docked => (w.fromOtherDock b d, none, plain)
  | .releasing => ((w.cancelRelease b d).fromOtherDock b d, none, plain)
  | .loading => ((w.cancelLoad b d).fromOtherDock b d, none, plain)
  | .onHire =>
    match (bikeAt w.store b).hire with
    | none => (w.dockBike b d, none, plain)
    | some h =>
      match hireAt w.store h with
      | none => (w.dockBike b d, none, plain)
      | some r =>
        match cardAt w.store r.card with
        | none => (w.dockBike b d, none, plain)
        | some c =>
          let (w, s, rep) := w.settleHire b d h r c button
          (w, some s, rep)
  | .inVan =>
    let w :=
      match (bikeAt w.store b).place with
      | some (.van v) => w.leaveManifest v b
      | _ => w
    (w.dockBike b d, none, plain)
  | .workshop => ((w.dockBike b d).raiseNotice (.bikeFound b d), none, plain)
  | .missing => ((w.dockBike b d).raiseNotice (.bikeFound b d), none, plain)
  | .uncommissioned => (w, none, plain)
  | .retired => (w, none, plain)

/-! ## Stage 5 -/

/-- Raises a fault on a condition, keeping the result of the last fault raised. -/
def raiseIf (p : Work × FaultResult) (cond : Bool) (sub : Subject) (c : Cause) (rep : Option Nat) :
    Work × FaultResult :=
  if cond then p.1.raiseFault sub c rep else p

/-- R58: whether B_SERVICE_DUE is raised: stage 4 raised the rides to the service interval. -/
def serviceDue (set : Settings) (before after : Nat) : Bool :=
  decide (0 < set.serviceInterval) && decide (before ≠ after) && decide (after = set.serviceInterval)

/-- R58: the bike faults of stage 5, in their order. -/
def Work.bikeFaults (w : Work) (b ridesBefore : Nat) (rep : Report) (damage : Bool) : Work × FaultResult :=
  let p := raiseIf (w, .none) rep.accepted (.bike b) .bReported rep.reporter
  let p := raiseIf p damage (.bike b) .bDamage none
  raiseIf p (serviceDue w.set ridesBefore (bikeAt w.store b).rides) (.bike b) .bServiceDue none

/-! ## BIKE_ARRIVED -/

/-- R101, R184: the indication of a fault result. -/
def FaultResult.toCode : FaultResult → Nat
  | .none => 0
  | .opened _ => 1
  | .waiting _ _ => 2
  | .mergedTicket _ => 3
  | .mergedPending _ _ => 3
  | .notRaised => 4

/-- R184, bytes 5 to 7 of an arrival's result record: the ticket id, or the cause and the position.
DEDUCED: 0 where the layout gives neither (R183; log entry 13). -/
def FaultResult.detail : FaultResult → List Byte
  | .opened id => encHandle (some id)
  | .mergedTicket id => encHandle (some id)
  | .waiting c n => encCause (some c) ++ le 2 n
  | .mergedPending c n => encCause (some c) ++ le 2 n
  | .none => le 3 0
  | .notRaised => le 3 0

/-- R184: bytes 10 to 55 of an arrival's result record. -/
def Settlement.record (s : Settlement) : List Byte :=
  encHandle (some s.hire) ++ encSerial (some s.serial) ++ encBike (some s.bike) ++
    encDock (some s.origin) ++ encDock (some s.dock) ++ le 1 s.state.toCode ++ encClock s.start ++
    encClock s.stop ++ encFare s.fare.minutes ++ encFare s.fare.before ++ encFare s.fare.charged ++
    encMoney s.fare.minor ++ encMoney s.fare.writeOff ++ encMoney s.fare.balance ++ le 1 s.fare.carry ++
    le 1 ((if s.fare.waived then 1 else 0) + (if s.retired then 2 else 0)) ++ le 1 s.status.toCode

/-- R184: an arrival's result record. -/
def arrivalRecord (st : Store) (d : Nat) (report : Option Nat) (prior : Nat) (s : Option Settlement)
    (f : FaultResult) : List Byte :=
  let fs := match report with
    | some b => (bikeAt st b).fault
    | none => noFault
  encContent (dockAt st d).content ++ le 1 prior ++
    le 1 ((if s.isSome then 1 else 0) + (if f = .none then 0 else 2)) ++ le 1 f.toCode ++ f.detail ++
    le 1 fs.strikes ++ encFlag fs.condemned ++
    (match s with
      | some s => s.record
      | none => [])

/-- R132: the net flow change at the dock of an event. -/
def Work.bumpDock (w : Work) (d : Nat) (change : Int) : Work :=
  match (dockAt w.store d).station with
  | some i => w.bumpFlow i change
  | none => w

/-- R21 to R24: an accepted arrival of `report` (none when UNREAD) at dock `d`. -/
def Work.arrive (w : Work) (d : Nat) (report : Option Nat) (button damage : Bool) : Reply × Work :=
  let prior := match report with
    | some b => (bikeAt w.store b).state.toCode
    | none => 255
  let side := bikeSideOf w.store report
  let isUnread := raisesUnread w.store report
  let w := (w.bumpDock d 1).clearContent d report
  match side with
  | none =>
    let w := w.putContent d .unidentified
    let w := if isUnread then (w.raiseFault (.dock d) .dUnread none).1 else w
    ({ outcome := .ok, result := arrivalRecord w.store d report prior none .none }, w)
  | some b =>
    let w := w.putContent d (.bike b)
    let ridesBefore := (bikeAt w.store b).rides
    let (w, s, rep) := w.bikeSide b d button
    let w := w.moveTicket b .opened
    let (w, f) := w.bikeFaults b ridesBefore rep damage
    ({ outcome := .ok, reportIgnored := rep.ignored
       result := arrivalRecord w.store d report prior s f }, w)

/-- R21, R25: the report of a bike number parameter: none when UNREAD. -/
def reportOf (n : Nat) : Option Nat := if n = unread then none else some n

/-- R21, R25, R184: a bike number parameter in range. -/
def goodReport (n : Nat) : Bool := decide (n < Config.bikes) || decide (n = unread)

def bikeArrived (w : Work) (q : Request) : Reply × Work :=
  let d := param q 0 2
  let n := param q 2 2
  let button := param q 4 1
  let damage := param q 5 1
  if Config.docks ≤ d ∨ goodReport n = false ∨ 1 < button ∨ 1 < damage then refuse w .badRequest
  else if (dockAt w.store d).service = .undefined ∨ (dockAt w.store d).service = .retired then
    refuse w .dockUnavailable
  else w.arrive d (reportOf n) (button == 1) (damage == 1)

/-! ## BIKE_REMOVED -/

/-- R25, R184: the kind of a removal. -/
inductive RemovalKind where
  | ride | van | late | forced | unidentified | conflict
deriving DecidableEq, Repr

def RemovalKind.toCode : RemovalKind → Nat
  | .ride => 0 | .van => 1 | .late => 2 | .forced => 3 | .unidentified => 4 | .conflict => 5

/-- R25: a dock whose content has been taken out. -/
def Work.emptyDock (w : Work) (d : Nat) : Work :=
  w.setDock d { dockAt w.store d with content := .empty, latch := .latched, lastLapse := none }

/-- R54: the ride of hire `h` begins. -/
def Work.beginRide (w : Work) (d : Nat) (h : Handle) : Work :=
  match hireAt w.store h with
  | none => w.emptyDock d
  | some r =>
    let w := w.setHire h { r with state := .riding, startTime := some w.now }
    let w := w.setBike r.bike { bikeAt w.store r.bike with state := .onHire, place := some (.hire h) }
    let w := (w.emptyDock d).removeEntry (.releaseWindow h)
    w.addEntry (.overdue h) (dueAt w.now w.set.overduePoint)

/-- R125: the load of van `v` at dock `d` completes with bike `b`. -/
def Work.completeLoad (w : Work) (d v b : Nat) : Work :=
  let r := vanAt w.store v
  let w := w.setVan v { r with manifest := r.manifest ++ [b], load := none }
  let w := w.setBike b { bikeAt w.store b with state := .inVan, place := some (.van v) }
  ((w.emptyDock d).removeEntry (.loadWindow v)).moveTicket b .collected

/-- R26: whether the last lapse of a dock makes a removal late. -/
def freshLapse (now : Nat) : Option Lapse → Bool
  | none => false
  | some l => decide (now - l.time < Config.lateGrace)

/-- R26: a late or forced removal of bike `b` from dock `d`. -/
def Work.pullBike (w : Work) (d b : Nat) : Work × RemovalKind :=
  let lapse := (dockAt w.store d).lastLapse
  let late := freshLapse w.now lapse
  let w := w.setBike b { bikeAt w.store b with state := .missing, place := none }
  let w := (w.emptyDock d).unhold b
  let w := (w.raiseFault (.dock d) .dForced none).1
  (w.raiseNotice (.bikeMissing b d (if late then lapse.map Lapse.serial else none)),
    if late then .late else .forced)

/-- R25: the removal by the latch and the content of the dock; the result gives the hire of a ride and the
van of a load. -/
def Work.takeOut (w : Work) (d : Nat) : Work × RemovalKind × Option Handle × Option Nat :=
  match (dockAt w.store d).latch, (dockAt w.store d).content with
  | .openForHire h, _ => ((w.beginRide d h).bumpDock d (-1), .ride, some h, none)
  | .openForVan v, .bike b => ((w.completeLoad d v b).bumpDock d (-1), .van, none, some v)
  | .latched, .bike b =>
    let (w, k) := w.pullBike d b
    (w.bumpDock d (-1), k, none, none)
  | .latched, .unidentified => ((w.emptyDock d).bumpDock d (-1), .unidentified, none, none)
  | _, _ => ((w.raiseFault (.dock d) .dConflict none).1, .conflict, none, none)

/-- R25: whether the report names a bike other than the recorded one. -/
def mismatch (c : Content) (report : Option Nat) : Bool :=
  match c, report with
  | .bike b, some n => b != n
  | _, _ => false

/-- R25, R54, R125: the result record of a removal. DEDUCED (log entry 13, with the other results that the
manual describes in words only). -/
def removalRecord (st : Store) (k : RemovalKind) (h : Option Handle) (v : Option Nat) : List Byte :=
  le 1 k.toCode ++ encHandle h ++
    (match v with
      | some v => encStation (some v) ++ le 1 (vanAt st v).manifest.length
      | none => [])

def bikeRemoved (w : Work) (q : Request) : Reply × Work :=
  let d := param q 0 2
  let n := param q 2 2
  if Config.docks ≤ d ∨ goodReport n = false then refuse w .badRequest
  else if (dockAt w.store d).service = .undefined then refuse w .dockUnavailable
  else
    let wrong := mismatch (dockAt w.store d).content (reportOf n)
    let (w, k, h, v) := w.takeOut d
    let w := if wrong then (w.raiseFault (.dock d) .dConflict none).1 else w
    ({ outcome := .ok, result := removalRecord w.store k h v }, w)

/-! ## Meanings -/

/-- BIKE_ARRIVED, code 1. -/
def execBikeArrived (q : Request) (s : State) : Host.Outcome State Fault Refusal :=
  .next (grantRequest 1#8 (workRule bikeArrived) q s)

/-- BIKE_REMOVED, code 2. -/
def execBikeRemoved (q : Request) (s : State) : Host.Outcome State Fault Refusal :=
  .next (grantRequest 2#8 (workRule bikeRemoved) q s)

end Sys2Proof.Machine
end

