-- ==== Sys2Proof/Machine/Cards.lean ====
section
/-! DEFINITION. The card requests and the bulk card load: CARD_CHECK, CARD_PUT, CARD_CREDIT, CARD_STATUS,
CARD_RETIRE, CARD_QUERY, BULK_CARD_LOAD and the images of a load (R36, R39 to R48, R164). -/

namespace Sys2Proof.Machine

/-- R184: a reservation field as bike and station. -/
def encReservation (r : Option Reservation) : List Byte :=
  encBike (r.map Reservation.bike) ++ encStation (r.map Reservation.station)

/-- R44: a card record as CARD_QUERY gives it. -/
def cardRecord (c : Card) : List Byte :=
  encSerial (some c.serial) ++ le 1 c.cls.toCode ++ le 1 c.status.toCode ++ encFlag c.guest ++
    encMoney c.balance ++ le 1 c.carry ++ encMoney c.holdTotal ++ encMoney (availableFunds c) ++
    le 1 c.openHires.length ++ c.openHires.flatMap (fun h => encHandle (some h)) ++
    le 1 c.hireLimit ++ encDay c.expiryDay ++ le 2 c.capDay ++ encFare c.daySpent ++
    encReservation c.reservation ++ le 1 c.reportsToday ++ le 2 c.reportDay

/-! ## CARD_CHECK -/

/-- R45: the standing of a card. -/
def standingRecord (c : Card) : List Byte :=
  le 1 c.status.toCode ++ le 1 c.cls.toCode ++ encMoney (availableFunds c) ++
    le 1 c.openHires.length ++ le 1 c.hireLimit ++ encDay c.expiryDay ++ encReservation c.reservation

def cardCheck (w : Work) (q : Request) : Reply × Work :=
  let serial := param q 0 7
  if serial = Config.serialAbsent then refuse w .badRequest
  else
    match (findCard w.store serial).bind (cardAt w.store) with
    | some c => ({ outcome := .ok, result := standingRecord c }, w)
    | none =>
      match absentCard w.set serial with
      | .home => refuse w .notFound
      | .accepted => ({ outcome := .notFound, guestEligible := true }, w)
      | .notAccepted => refuse w .cardRefused reasonIssuer

/-- CARD_CHECK, code 4. -/
def execCardCheck (q : Request) (s : State) : Host.Outcome State Fault Refusal :=
  .next (grantRequest 4#8 (workRule cardCheck) q s)

/-! ## CARD_PUT -/

/-- R39: what CARD_PUT and a card image give a card. -/
structure CardImage where
  serial : Nat
  cls : Nat
  status : Nat
  hireLimit : Nat
  expiry : Nat
  opening : Int
deriving DecidableEq, Repr

/-- R184: a membership expiry day of 65,535 is absent. -/
def expiryOf (n : Nat) : Option Nat := if n = 65535 then none else some n

/-- R39, R184: the checks of a card image that read no record. -/
def goodImage (i : CardImage) : Bool :=
  decide (i.serial ≠ Config.serialAbsent) && (CardClass.ofCode i.cls).isSome &&
    (decide (i.status = CardStatus.active.toCode) || decide (i.status = CardStatus.blocked.toCode)) &&
    decide (1 ≤ i.hireLimit) && decide (i.hireLimit ≤ 4)

/-- R39: the card that a creation makes. -/
def createdCard (i : CardImage) : Card :=
  { serial := i.serial, cls := (CardClass.ofCode i.cls).getD .member
    status := if i.status = CardStatus.active.toCode then .active else .blocked
    guest := false, balance := i.opening, carry := 0, holdTotal := 0, openHires := []
    hireLimit := i.hireLimit, expiryDay := expiryOf i.expiry, capDay := 0, daySpent := 0
    reservation := none, reportsToday := 0, reportDay := 0 }

/-- R31: the status of a card whose block is cleared or whose retirement is cancelled. -/
def standingStatus (balance : Int) : CardStatus := if 0 ≤ balance then .active else .suspended

/-- R31, R40: the status that CARD_PUT leaves. -/
def putStatus (c : Card) (status : Nat) : CardStatus :=
  if status = CardStatus.active.toCode then
    match c.status with
    | .active => .active
    | .suspended => .suspended
    | .blocked => standingStatus c.balance
    | .retiring => standingStatus c.balance
  else .blocked

/-- R40: the card that an update leaves. -/
def updatedCard (i : CardImage) (c : Card) : Card :=
  { c with
    cls := (CardClass.ofCode i.cls).getD c.cls, hireLimit := i.hireLimit, expiryDay := expiryOf i.expiry
    status := putStatus c i.status, guest := false }

/-- R39: whether an opening balance is in range. -/
def goodOpening (b : Int) : Bool := decide (-Config.balanceMax ≤ b) && decide (b ≤ Config.balanceMax)

/-- R39, R40, R47: the result of putting a card image that passed `goodImage`. -/
inductive PutResult where
  | badOpening
  | full
  | created (slot : Nat) (st : Store)
  | updated (slot : Nat) (st : Store)
deriving DecidableEq, Repr

/-- R39, R40: finds the card and creates or updates it. -/
def putImage (st : Store) (i : CardImage) : PutResult :=
  match findCard st i.serial with
  | some slot => .updated slot (putCard st slot ((cardAt st slot).map (updatedCard i)))
  | none =>
    if goodOpening i.opening then
      match createCard st (createdCard i) with
      | none => .full
      | some (slot, st) => .created slot st
    else .badOpening

/-- R184: the parameters of CARD_PUT. -/
def putParams (q : Request) : CardImage :=
  ⟨param q 0 7, param q 7 1, param q 8 1, param q 9 1, param q 10 2, signedParam q 12 4⟩

/-- R39: the card record in a slot, for the response. -/
def slotRecord (st : Store) (slot : Nat) : List Byte :=
  match cardAt st slot with
  | some c => cardRecord c
  | none => []

def cardPut (w : Work) (q : Request) : Reply × Work :=
  let i := putParams q
  if goodImage i then
    match putImage w.store i with
    | .badOpening => refuse w .badRequest
    | .full => refuse w .tableFull reasonCards
    | .created slot st => ({ outcome := .ok, result := le 1 0 ++ slotRecord st slot }, { w with store := st })
    | .updated slot st => ({ outcome := .ok, result := le 1 1 ++ slotRecord st slot }, { w with store := st })
  else refuse w .badRequest

/-- CARD_PUT, code 26. -/
def execCardPut (q : Request) (s : State) : Host.Outcome State Fault Refusal :=
  .next (grantRequest 26#8 (workRule cardPut) q s)

/-! ## CARD_CREDIT, CARD_STATUS -/

/-- R36: the card that an Office request names, with its slot; none when it is absent. -/
def namedCard (st : Store) (serial : Nat) : Option (Nat × Card) :=
  match findCard st serial with
  | none => none
  | some slot => (cardAt st slot).map (fun c => (slot, c))

/-- R41: the card after a credit whose exact sum is not above the limit, and the write-off. -/
def creditedCard (c : Card) (amount : Int) : Card × Int :=
  let (balance, writeOff) := charge c.balance (-amount)
  ({ c with
      balance := balance
      status := if c.status = .suspended ∧ 0 ≤ balance then .active else c.status }, writeOff)

def cardCredit (w : Work) (q : Request) : Reply × Work :=
  let serial := param q 0 7
  let amount := signedParam q 7 4
  if serial = Config.serialAbsent ∨ amount < -2000000 ∨ 2000000 < amount then refuse w .badRequest
  else
    match namedCard w.store serial with
    | none => refuse w .notFound
    | some (slot, c) =>
      if Config.balanceMax < c.balance + amount then refuse w .creditLimit
      else
        let (c, writeOff) := creditedCard c amount
        ({ outcome := .ok
           result := encMoney c.balance ++ encMoney writeOff ++ le 1 c.status.toCode ++
             encMoney (availableFunds c) }, w.setCard slot c)

/-- CARD_CREDIT, code 27. -/
def execCardCredit (q : Request) (s : State) : Host.Outcome State Fault Refusal :=
  .next (grantRequest 27#8 (workRule cardCredit) q s)

/-- R42: the status after CLEAR_BLOCK. -/
def clearedStatus (c : Card) : CardStatus :=
  if c.status = .blocked then standingStatus c.balance else c.status

def cardStatus (w : Work) (q : Request) : Reply × Work :=
  let serial := param q 0 7
  let action := param q 7 1
  if serial = Config.serialAbsent ∨ 1 < action then refuse w .badRequest
  else
    match namedCard w.store serial with
    | none => refuse w .notFound
    | some (slot, c) =>
      if action = 0 ∧ c.status = .retiring then refuse w .wrongState
      else
        let status := if action = 0 then .blocked else clearedStatus c
        ({ outcome := .ok, result := le 1 status.toCode }, w.setCard slot { c with status := status })

/-- CARD_STATUS, code 28. -/
def execCardStatus (q : Request) (s : State) : Host.Outcome State Fault Refusal :=
  .next (grantRequest 28#8 (workRule cardStatus) q s)

/-! ## CARD_RETIRE, CARD_QUERY -/

/-- R43 step 1: ends the reservation of a card, if it holds one, without a notice. -/
def Work.endReservation (w : Work) (slot : Nat) (r : Option Reservation) : Work :=
  match r with
  | some r => w.endHold slot r.bike
  | none => w

def cardRetire (w : Work) (q : Request) : Reply × Work :=
  let serial := param q 0 7
  if serial = Config.serialAbsent then refuse w .badRequest
  else
    match namedCard w.store serial with
    | none => refuse w .notFound
    | some (slot, c) =>
      let w := w.endReservation slot c.reservation
      if c.openHires = [] then
        ({ outcome := .ok, result := encMoney c.balance ++ le 1 c.carry },
          { w with store := removeCard w.store slot })
      else
        ({ outcome := .deferred, result := le 1 c.openHires.length ++ encMoney c.balance },
          w.modifyCard slot (fun c => { c with status := .retiring }))

/-- CARD_RETIRE, code 29. -/
def execCardRetire (q : Request) (s : State) : Host.Outcome State Fault Refusal :=
  .next (grantRequest 29#8 (workRule cardRetire) q s)

def cardQuery (w : Work) (q : Request) : Reply × Work :=
  let serial := param q 0 7
  if serial = Config.serialAbsent then refuse w .badRequest
  else
    match namedCard w.store serial with
    | none => refuse w .notFound
    | some (_, c) => ({ outcome := .ok, result := cardRecord c }, w)

/-- CARD_QUERY, code 30. -/
def execCardQuery (q : Request) (s : State) : Host.Outcome State Fault Refusal :=
  .next (grantRequest 30#8 (workRule cardQuery) q s)

/-! ## Bulk card load -/

/-- R46: BULK_CARD_LOAD; a taken one sets the Bulk Loader in flight and leaves its response to the end of
the load. -/
def bulkCardLoad (s : State) (q : Request) : Handled :=
  let count := param q 4 2
  if count = 0 then .answered s { outcome := .badLength } []
  else if Config.bulkImages < count then .answered s { outcome := .badRequest } []
  else if s.bulk.isSome then .answered s { outcome := .busy } []
  else .reserved { s with bulk := some ⟨param q 0 4, count, 0, 0, 0, 0, 0⟩ }

/-- BULK_CARD_LOAD, code 31. -/
def execBulkCardLoad (q : Request) (s : State) : Host.Outcome State Fault Refusal :=
  .next (grantRequest bulkCardLoadCode bulkCardLoad q s)

/-- R183: the result record of a bulk load's response. -/
def tallies (b : BulkLoad) : List Byte :=
  le 2 b.created ++ le 2 b.updated ++ le 2 b.refused ++ le 2 b.processed

/-- R164: the Office ring, whose response ring holds the reserved slot. -/
def officeRing : Nat := 3

/-- R164: after the write of the reserved slot, or its failure. -/
def afterReserved (s : State) (written : Bool) : State :=
  let st := (ringAt s officeRing).state
  if written then
    let s := raiseEvent s (responseWritten officeRing)
    if st = .blocked then look s officeRing else s
  else
    let s := raiseEvent s ringFailed
    if st = .idle ∨ st = .ready ∨ st = .blocked then setRingState s officeRing .failed else s

/-- R47, R48, R164: the end of a load: the reserved slot is written with the outcome and the tallies, and the
Bulk Loader becomes idle. -/
def endBulk (s : State) (b : BulkLoad) (o : OutcomeCode) : State :=
  match s.rings.reserved with
  | none => { s with bulk := none }
  | some slot =>
    let reply : Reply := { outcome := o, result := tallies b }
    let a := slotAddress (ringAt s officeRing).response slot.index
    let (written, s) := busWrite s a (responseBytes bulkCardLoadCode slot.tag reply false false) false
    afterReserved { s with bulk := none, rings.reserved := none } written

/-- R185: the fields of a card image. -/
def imageOf (block : Nat) : CardImage :=
  ⟨field block 0 7, field block 7 1, field block 8 1, field block 9 1, field block 10 2,
    signedField block 12 4⟩

/-- R47: applies an image that has been read: the store and the tallies after it. -/
def applyImage (set : Settings) (st : Store) (b : BulkLoad) (block : Nat) : Store × BulkLoad :=
  let b := { b with progress := b.progress + 1, processed := b.processed + 1 }
  let bad := { b with refused := b.refused + 1 }
  if (set.checking ∧ byteSum Config.imageBytes block ≠ 255) ∨ goodImage (imageOf block) = false then (st, bad)
  else
    match putImage st (imageOf block) with
    | .badOpening => (st, bad)
    | .full => (st, bad)
    | .created _ st => (st, { b with created := b.created + 1 })
    | .updated _ st => (st, { b with updated := b.updated + 1 })

/-- R47, R48: one image of the load in flight, the grant being made. -/
def bulkImage (s : State) (b : BulkLoad) : State :=
  match busRead s (b.address + 32 * b.progress) Config.imageBytes with
  | (none, s) => endBulk s b .busError
  | (some block, s) =>
    let (st, b) := applyImage s.settings s.store b block
    let s := { s with store := st, bulk := some b }
    if b.progress = b.count then endBulk s b .ok else s

/-- BULK_CARD_IMAGE: a grant to the Bulk Loader. Where the arbiter's grant does not go to it, nothing
happens. -/
def execBulkCardImage (hub : HubInput) (s : State) : Host.Outcome State Fault Refusal :=
  match s.bulk with
  | none => .next s
  | some b =>
    if arbiterChoice s = some .bulk then
      .next (endCommand (bulkImage (chargeGrant (beginCommand s hub) .bulk) b))
    else .next s

end Sys2Proof.Machine
end

