-- ==== Sys2Proof/Machine/Hires.lean ====
section
/-! DEFINITION. Hires and reservations: HIRE_RELEASE, HIRE_QUERY, RESERVE, CANCEL_RESERVATION and the
expiries of a release window, an overdue point, a lost point and a hold (R51 to R55, R61 to R70). -/

namespace Sys2Proof.Machine

/-! ## Checks that a release and a reservation share -/

/-- R51 steps 1 to 3: clock, tariff, station. -/
def stationRefusal (st : Store) (i : Nat) : Option OutcomeCode :=
  if st.timer.clock.isNone then some .noTime
  else if st.tariff.loaded = false then some .noTariff
  else if (stationAt st i).isDefined = false then some .notFound
  else none

/-- R30: the reason CARD_REFUSED carries for a status. -/
def statusReason : CardStatus → Nat
  | .active => 0
  | .blocked => reasonBlocked
  | .suspended => reasonSuspended
  | .retiring => reasonRetiring

/-- R51 step 6: whether the membership has expired. -/
def expired (day : Nat) : Option Nat → Bool
  | none => false
  | some d => decide (d < day)

/-- R51 steps 5 to 9: status, membership, hire limit, funds and a free hire slot. -/
def standingRefusal (w : Work) (c : Card) : Option Reply :=
  let p := classParams w.store.tariff.active c.cls
  if c.status ≠ .active then some { outcome := .cardRefused, reason := statusReason c.status }
  else if expired (dayNumber w.set w.now) c.expiryDay then
    some { outcome := .cardRefused, reason := reasonExpired }
  else if c.hireLimit ≤ c.openHires.length then
    some { outcome := .hireLimit, result := le 1 c.openHires.length ++ le 1 c.hireLimit }
  else if availableFunds c < p.releaseMin then
    some { outcome := .fundsLow, result := encMoney (availableFunds c) ++ encMoney p.releaseMin }
  else if (freeHireSlot w.store).isNone then some { outcome := .tableFull, reason := reasonHires }
  else none

/-! ## HIRE_RELEASE -/

/-- R37: a new guest record. -/
def guestCard (serial : Nat) : Card :=
  { serial := serial, cls := .guest, status := .active, guest := true, balance := 0, carry := 0
    holdTotal := 0, openHires := [], hireLimit := 1, expiryDay := none, capDay := 0, daySpent := 0
    reservation := none, reportsToday := 0, reportDay := 0 }

/-- R51 step 4, R36, R37: the card of a release, found or created as a guest, with the store. -/
def cardForRelease (set : Settings) (st : Store) (serial : Nat) : Except Reply (Nat × Card × Store) :=
  match namedCard st serial with
  | some (slot, c) => .ok (slot, c, st)
  | none =>
    match absentCard set serial with
    | .home => .error { outcome := .notFound }
    | .notAccepted => .error { outcome := .cardRefused, reason := reasonIssuer }
    | .accepted =>
      match createCard st (guestCard serial) with
      | none => .error { outcome := .tableFull, reason := reasonCards }
      | some (slot, st) => .ok (slot, guestCard serial, st)

/-- R52: whether a dock lies in a station's range. -/
def inRange (r : Station) (d : Nat) : Bool :=
  decide (r.firstDock ≤ d) && decide (d < r.firstDock + r.dockCount)

/-- R52: a bike that is usable, or held for the card in `slot`. -/
def releasable (st : Store) (slot b : Nat) : Bool :=
  usable st b || (decide ((bikeAt st b).state = .docked) && (bikeAt st b).heldFor == some slot)

/-- R52: the bike of a release for the card in `slot`, at station `i`, with or without a dock named. -/
def chooseRelease (st : Store) (slot : Nat) (c : Card) (i : Nat) (dock : Option Nat) :
    Except OutcomeCode Nat :=
  match dock with
  | some d =>
    match (dockAt st d).content with
    | .bike b =>
      if inRange (stationAt st i) d && releasable st slot b then .ok b else .error .bikeUnavailable
    | _ => .error .bikeUnavailable
  | none =>
    match c.reservation with
    | some r =>
      if r.station = i then .ok r.bike
      else
        match chooseUsable st i with
        | some b => .ok b
        | none => .error .noBike
    | none =>
      match chooseUsable st i with
      | some b => .ok b
      | none => .error .noBike

/-- The dock that a bike's place names. -/
def dockOfPlace : Option Place → Option Nat
  | some (.dock d) => some d
  | _ => none

/-- R53: what the response to a taken release gives. -/
structure Release where
  hire : Handle
  dock : Nat
  bike : Nat
  hold : Int
  due : Nat
  funds : Int
deriving DecidableEq, Repr

def Release.record (r : Release) : List Byte :=
  encHandle (some r.hire) ++ encDock (some r.dock) ++ encBike (some r.bike) ++ encMoney r.hold ++
    encClock r.due ++ encMoney r.funds

/-- R53: opens hire slot `k` for the card `c` in `slot` with bike `b` of dock `d`. -/
def Work.openHire (w : Work) (k slot : Nat) (c : Card) (b d : Nat) : Work × Release :=
  let hold := (classParams w.store.tariff.active c.cls).hold
  let h : Handle := ⟨k, (hireSlotAt w.store k).gen⟩
  let due := dueAt w.now w.set.releaseWindow
  let w := w.setHire h ⟨.releasing, slot, b, d, w.now, none, hold, c.cls⟩
  let w := if (bikeAt w.store b).heldFor = some slot then w.endHold slot b else w
  let w := w.modifyCard slot
    (fun c => { c with openHires := c.openHires ++ [h], holdTotal := c.holdTotal + hold })
  let w := w.setBike b { bikeAt w.store b with state := .releasing, hire := some h }
  let w := w.setDock d { dockAt w.store d with latch := .openForHire h }
  (w.addEntry (.releaseWindow h) due, ⟨h, d, b, hold, due, availableFunds c - hold⟩)

/-- R184: an optional dock parameter. -/
def dockParam (n : Nat) : Option Nat := if n = absent2 then none else some n

def hireRelease (w : Work) (q : Request) : Reply × Work :=
  let serial := param q 0 7
  let i := param q 7 1
  let n := param q 8 2
  if serial = Config.serialAbsent ∨ Config.stations ≤ i ∨ (n ≠ absent2 ∧ Config.docks ≤ n) then
    refuse w .badRequest
  else
    match stationRefusal w.store i with
    | some o => refuse w o
    | none =>
      match cardForRelease w.set w.store serial with
      | .error r => (r, w)
      | .ok (slot, c, st) =>
        match standingRefusal { w with store := st } c with
        | some r => (r, w)
        | none =>
          match chooseRelease st slot c i (dockParam n), freeHireSlot st with
          | .ok b, some k =>
            let (w, r) :=
              { w with store := st }.openHire k slot c b ((dockOfPlace (bikeAt st b).place).getD 0)
            ({ outcome := .ok, result := r.record }, w)
          | .error o, _ => refuse w o
          | .ok _, none => refuse w .tableFull reasonHires

/-- HIRE_RELEASE, code 5. -/
def execHireRelease (q : Request) (s : State) : Host.Outcome State Fault Refusal :=
  .next (grantRequest 5#8 (workRule hireRelease) q s)

/-! ## HIRE_QUERY -/

/-- R64: the deadline entry of a hire, by its state. -/
def hireDeadline (h : Handle) : HireState → Deadline
  | .releasing => .releaseWindow h
  | .riding => .overdue h
  | .overdue => .lost h

/-- R64: the seconds ridden. -/
def secondsRidden (now : Nat) : Option Nat → Nat
  | none => 0
  | some t => now - t

/-- R64: a hire summary. -/
def hireSummary (st : Store) (h : Handle) (r : Hire) : List Byte :=
  let e := hireDeadline h r.state
  encHandle (some h) ++ le 1 r.state.toCode ++ encSerial (serialOf st r.card) ++ encBike (some r.bike) ++
    encDock (some r.origin) ++ encClock r.releaseTime ++ encOptClock r.startTime ++ encMoney r.hold ++
    le 1 r.cls.toCode ++ le 1 e.toCode ++ encClock ((dueOf st e).getD 0) ++
    le 4 (secondsRidden (st.timer.clock.getD 0) r.startTime)

/-- R64: the summary of the hire that an id names. -/
def summaryOf (st : Store) (h : Handle) : List Byte :=
  match hireAt st h with
  | some r => hireSummary st h r
  | none => []

def hireQuery (w : Work) (q : Request) : Reply × Work :=
  let form := param q 0 1
  if form = 0 then
    let h := handleParam q 1
    if Config.hireSlots ≤ h.slot then refuse w .badRequest
    else
      match hireAt w.store h with
      | none => refuse w .staleId
      | some r => ({ outcome := .ok, result := hireSummary w.store h r }, w)
  else if form = 1 then
    let serial := param q 1 7
    if serial = Config.serialAbsent then refuse w .badRequest
    else
      match namedCard w.store serial with
      | none => refuse w .notFound
      | some (_, c) =>
        ({ outcome := .ok
           result := le 1 c.openHires.length ++ c.openHires.flatMap (summaryOf w.store) }, w)
  else refuse w .badRequest

/-- HIRE_QUERY, code 6. -/
def execHireQuery (q : Request) (s : State) : Host.Outcome State Fault Refusal :=
  .next (grantRequest 6#8 (workRule hireQuery) q s)

/-! ## RESERVE, CANCEL_RESERVATION -/

/-- R66 step 4, R36: the card of a reservation; none is created. -/
def cardForReserve (set : Settings) (st : Store) (serial : Nat) : Except Reply (Nat × Card) :=
  match namedCard st serial with
  | some p => .ok p
  | none =>
    match absentCard set serial with
    | .home => .error { outcome := .notFound }
    | .accepted => .error { outcome := .notFound }
    | .notAccepted => .error { outcome := .cardRefused, reason := reasonIssuer }

def reserve (w : Work) (q : Request) : Reply × Work :=
  let serial := param q 0 7
  let i := param q 7 1
  if serial = Config.serialAbsent ∨ Config.stations ≤ i then refuse w .badRequest
  else
    match stationRefusal w.store i with
    | some o => refuse w o
    | none =>
      match cardForReserve w.set w.store serial with
      | .error r => (r, w)
      | .ok (slot, c) =>
        match standingRefusal w c with
        | some r => (r, w)
        | none =>
          if c.reservation.isSome then refuse w .wrongState
          else if Config.reservations ≤ w.store.fleet.reservationsHeld then
            refuse w .tableFull reasonReservations
          else
            match chooseUsable w.store i with
            | none => refuse w .noBike
            | some b =>
              let due := dueAt w.now w.set.reservationHold
              ({ outcome := .ok
                 result := encBike (some b) ++ encDock (dockOfPlace (bikeAt w.store b).place) ++
                   encClock due }, w.setHold slot b i due)

/-- RESERVE, code 32. -/
def execReserve (q : Request) (s : State) : Host.Outcome State Fault Refusal :=
  .next (grantRequest 32#8 (workRule reserve) q s)

def cancelReservation (w : Work) (q : Request) : Reply × Work :=
  let serial := param q 0 7
  if serial = Config.serialAbsent then refuse w .badRequest
  else
    match namedCard w.store serial with
    | none => refuse w .notFound
    | some (slot, c) =>
      match c.reservation with
      | none => refuse w .wrongState
      | some r => ({ outcome := .ok, result := encReservation (some r) }, w.endHold slot r.bike)

/-- CANCEL_RESERVATION, code 7. -/
def execCancelReservation (q : Request) (s : State) : Host.Outcome State Fault Refusal :=
  .next (grantRequest 7#8 (workRule cancelReservation) q s)

/-! ## Expiries -/

/-- R55: the release lapse of hire `h`. -/
def Work.lapseRelease (w : Work) (h : Handle) (r : Hire) : Work :=
  let serial := serialOf w.store r.card
  let w := w.closeRelease h r
  let w := w.setDock r.origin
    { dockAt w.store r.origin with
      lastLapse := serial.map (fun n => ⟨n, w.now⟩) }
  ((w.raiseNotice (.releaseLapsed h serial r.bike r.origin)).closeCardAtLast r.card).1

/-- R148: the hire of a due entry, when it is in the state that the kind expects. -/
def dueHire (st : Store) (h : Handle) (expected : HireState) : Option Hire :=
  match hireAt st h with
  | some r => if r.state = expected then some r else none
  | none => none

/-- R150: the due head of the deadline list, when the arbiter's grant goes to the Timer Unit. -/
def grantedHead (s : State) : Option Deadline :=
  if arbiterChoice s = some .timer then (dueHead s.store).map Entry.what else none

/-- RELEASE_WINDOW expiry. Where the arbiter's grant does not go to a due entry of this kind, nothing
happens. -/
def execReleaseWindowExpiry (hub : HubInput) (s : State) : Host.Outcome State Fault Refusal :=
  match grantedHead s with
  | some (.releaseWindow h) =>
    match dueHire s.store h .releasing with
    | some r => .next (grantExpiry hub (fun w => w.lapseRelease h r) s)
    | none => .fault .ownerNotInState
  | _ => .next s

/-- R61: hire `h` becomes OVERDUE. -/
def Work.makeOverdue (w : Work) (h : Handle) (r : Hire) : Work :=
  let start := r.startTime.getD w.now
  let due := dueAt start w.set.lostPoint
  let w := (w.setHire h { r with state := .overdue }).addEntry (.lost h) due
  w.raiseNotice (.hireOverdue h (serialOf w.store r.card) r.bike start due)

/-- OVERDUE expiry. -/
def execOverdueExpiry (hub : HubInput) (s : State) : Host.Outcome State Fault Refusal :=
  match grantedHead s with
  | some (.overdue h) =>
    match dueHire s.store h .riding with
    | some r => .next (grantExpiry hub (fun w => w.makeOverdue h r) s)
    | none => .fault .ownerNotInState
  | _ => .next s

/-- R62 steps 1 to 3: the card charged the lost fee. -/
def lostCard (t : Tariff) (h : Handle) (r : Hire) (c : Card) : Card :=
  suspensionTest t (leaveCard h r.hold { c with balance := (charge c.balance t.lostFee).1 })

/-- R62: hire `h` is closed as lost; its card is `c`. -/
def Work.loseHire (w : Work) (h : Handle) (r : Hire) (c : Card) : Work :=
  let t := w.store.tariff.active
  let (balance, writeOff) := charge c.balance t.lostFee
  let w := w.setCard r.card (lostCard t h r c)
  let w := w.freeHire h
  let w := w.setBike r.bike { bikeAt w.store r.bike with hire := none, state := .missing, place := none }
  ((w.raiseNotice (.bikeLost r.bike (some c.serial) h t.lostFee writeOff balance)).closeCardAtLast r.card).1

/-- LOST expiry. -/
def execLostExpiry (hub : HubInput) (s : State) : Host.Outcome State Fault Refusal :=
  match grantedHead s with
  | some (.lost h) =>
    match dueHire s.store h .overdue with
    | some r =>
      match cardAt s.store r.card with
      | some c => .next (grantExpiry hub (fun w => w.loseHire h r c) s)
      | none => .fault .ownerNotInState
    | none => .fault .ownerNotInState
  | _ => .next s

/-- R68: the reservation on bike `b`, held for the card in `slot`, ends. -/
def Work.expireHold (w : Work) (b slot : Nat) (r : Reservation) : Work :=
  (w.endHold slot b).raiseNotice (.holdExpired (serialOf w.store slot) b r.station)

/-- R148: the slot and the reservation that a held bike's entry stands for. -/
def dueHold (st : Store) (b : Nat) : Option (Nat × Reservation) :=
  match (bikeAt st b).heldFor with
  | none => none
  | some slot =>
    match cardAt st slot with
    | none => none
    | some c => c.reservation.map (fun r => (slot, r))

/-- HOLD_EXPIRY expiry. -/
def execHoldExpiry (hub : HubInput) (s : State) : Host.Outcome State Fault Refusal :=
  match grantedHead s with
  | some (.holdExpiry b) =>
    match dueHold s.store b with
    | some (slot, r) => .next (grantExpiry hub (fun w => w.expireHold b slot r) s)
    | none => .fault .ownerNotInState
  | _ => .next s

end Sys2Proof.Machine
end

