-- ==== Sys2Proof/Machine/Clock.lean ====
section
/-! DEFINITION. The clock and the trend epoch: TIME_SET, TICK, CLOCK_LOW_READ and TREND_EPOCH (R134, R135,
R142 to R145). -/

namespace Sys2Proof.Machine

/-! ## TIME_SET -/

/-- R145 step 1: the clock set. -/
def Work.setClock (w : Work) (t : Nat) : Work := { w with store.timer.clock := some t }

/-- R145: the number of entries due. -/
def dueCount (tm : Timer) : Nat := tm.deadlines.countP (isDue tm)

/-- R135, R145 step 2: adds a TREND_EPOCH entry where the list holds none; gives whether it did. -/
def Work.startEpoch (w : Work) : Work × Bool :=
  if (dueOf w.store .trendEpoch).isSome then (w, false)
  else (w.addEntry .trendEpoch (dueAt w.now w.set.trendPeriod), true)

def timeSet (w : Work) (q : Request) : Reply × Work :=
  let t := param q 0 4
  let before := w.store.timer.clock
  let (w, added) := (w.setClock t).startEpoch
  ({ outcome := .ok
     result := encOptClock before ++ encClock t ++ le 2 (dueCount w.store.timer) ++
       encClock ((dueOf w.store .trendEpoch).getD 0) ++ encFlag added }, w)

/-- TIME_SET, code 19. -/
def execTimeSet (q : Request) (s : State) : Host.Outcome State Fault Refusal :=
  .next (grantRequest 19#8 (workRule timeSet) q s)

/-! ## TICK, CLOCK_LOW_READ -/

/-- R142, R143: the clock after a pulse. -/
def ticked : Option Nat → Option Nat
  | none => none
  | some t => some (min (t + 1) Config.clockMax)

/-- TICK. Time passes by this command alone (DESIGN CHOICE: log entry 11). -/
def execTick (s : State) : Host.Outcome State Fault Refusal :=
  .next { s with store.timer.clock := ticked s.store.timer.clock }

/-- R142: a read of CLOCK low; the value read is left in `dataOut`. -/
def readClockLow (s : State) : State :=
  { s with store.timer.captured := clockHigh s, port.dataOut := clockLow s }

/-- CLOCK_LOW_READ. -/
def execClockLowRead (s : State) : Host.Outcome State Fault Refusal :=
  .next (portAccess readClockLow s)

/-! ## TREND_EPOCH -/

/-- R134: half a net flow, truncated toward zero. -/
def halved (flow : Int) : Int := flow.tdiv 2

/-- R134 steps 1 to 3 for a station. -/
def Work.decayStation (w : Work) (i : Nat) : Work :=
  let r := stationAt w.store i
  if r.isDefined then
    let r := { r with netFlow := halved r.netFlow, direction := directionOf (halved r.netFlow) }
    { w with store := putStation w.store i r }.compareIndicator i
  else w

/-- R134: the expiry. -/
def Work.decay (w : Work) : Work :=
  ((List.range Config.stations).foldl Work.decayStation w).addEntry .trendEpoch
    (dueAt w.now w.set.trendPeriod)

/-- TREND_EPOCH expiry. Where the arbiter's grant does not go to a due entry of this kind, nothing
happens. -/
def execTrendEpoch (hub : HubInput) (s : State) : Host.Outcome State Fault Refusal :=
  match grantedHead s with
  | some .trendEpoch => .next (grantExpiry hub Work.decay s)
  | _ => .next s

end Sys2Proof.Machine
end

