-- ==== Sys2Proof/Machine/Fleet.lean ====
section
/-! DEFINITION. The Office requests on the fleet tables: STATION_DEFINE, BIKE_COMMISSION,
BIKE_DECOMMISSION, DOCK_COMMISSION, BIKE_QUERY and STATION_QUERY (R14 to R20, R140). -/

namespace Sys2Proof.Machine

/-! ## STATION_DEFINE -/

/-- R14: a value above 64 becomes 64. -/
def clamp64 (n : Nat) : Nat := min n 64

/-- R14: five thresholds clamped, then raised in order so that none is below the one before it. -/
def clampThresholds (a b c d e : Nat) : Thresholds :=
  let t1 := clamp64 a
  let t2 := max t1 (clamp64 b)
  let t3 := max t2 (clamp64 c)
  let t4 := max t3 (clamp64 d)
  ⟨t1, t2, t3, t4, max t4 (clamp64 e)⟩

/-- R14: a band clamped, a high below low raised to low. -/
def clampBand (low high : Nat) : Band := ⟨clamp64 low, max (clamp64 low) (clamp64 high)⟩

/-- R14, R184: the settings of a STATION_DEFINE as they are stored. -/
def stationSettings (q : Request) : StationSettings :=
  { peakBand := clampBand (param q 4 1) (param q 5 1)
    offPeakBand := clampBand (param q 6 1) (param q 7 1)
    fillingT := clampThresholds (param q 8 1) (param q 9 1) (param q 10 1) (param q 11 1) (param q 12 1)
    emptyingT :=
      clampThresholds (param q 13 1) (param q 14 1) (param q 15 1) (param q 16 1) (param q 17 1)
    flashAlarm := clamp64 (param q 18 1) }

/-- R14, R20: the SETTINGS part of a station. -/
def settingsRecord (r : Station) : List Byte :=
  let s := r.settings
  encDock (some r.firstDock) ++
    [r.dockCount, s.peakBand.low, s.peakBand.high, s.offPeakBand.low, s.offPeakBand.high,
      s.fillingT.t1, s.fillingT.t2, s.fillingT.t3, s.fillingT.t4, s.fillingT.t5,
      s.emptyingT.t1, s.emptyingT.t2, s.emptyingT.t3, s.emptyingT.t4, s.emptyingT.t5,
      s.flashAlarm].flatMap (le 1)

/-- R15: whether two ranges of docks share one. -/
def overlap (first count first' count' : Nat) : Bool :=
  decide (first < first' + count') && decide (first' < first + count)

/-- R15: whether a dock of the new range lies in the range of another defined station. -/
def overlapsOther (st : Store) (i first count : Nat) : Bool :=
  (List.range Config.stations).any (fun j =>
    j != i && (stationAt st j).isDefined &&
      overlap first count (stationAt st j).firstDock (stationAt st j).dockCount)

/-- R15: whether a dock of the old range holds up a change to a new range. -/
def dockBusy (st : Store) (first count d : Nat) : Bool :=
  let r := dockAt st d
  decide (r.content ≠ .empty) || decide (r.latch ≠ .latched) || r.fault.ticket.isSome ||
    r.fault.pending.isSome ||
    (decide (r.service = .retired) && !(decide (first ≤ d) && decide (d < first + count)))

/-- R15: the reason a STATION_DEFINE is refused with WRONG_STATE, 0 when it is not. -/
def rangeRefusal (st : Store) (i first count : Nat) : Nat :=
  let r := stationAt st i
  let change := r.isDefined && (r.firstDock != first || r.dockCount != count)
  if Config.docks < first + count then reasonRange
  else if overlapsOther st i first count then reasonOverlap
  else if change && r.claimedBy.isSome then reasonClaimed
  else if change && (rangeDocks r.firstDock r.dockCount).any (dockBusy st first count) then reasonDocksBusy
  else 0

/-- R15: a dock that leaves its station. -/
def leftDock (r : Dock) : Dock :=
  { r with station := none, service := .undefined, content := .empty, latch := .latched, lastLapse := none }

/-- R15: a dock that joins station `i`. -/
def joinedDock (i : Nat) (r : Dock) : Dock :=
  { r with station := some i, service := .inService, content := .empty, latch := .latched }

/-- R15: the docks leave the old range and join the new one. -/
def Work.moveRange (w : Work) (i first count : Nat) : Work :=
  let r := stationAt w.store i
  let old := rangeDocks r.firstDock r.dockCount
  let new := rangeDocks first count
  let w := (old.filter (fun d => !new.contains d)).foldl
    (fun w d => w.setDock d (leftDock (dockAt w.store d))) w
  (new.filter (fun d => !old.contains d)).foldl
    (fun w d => w.setDock d (joinedDock i (dockAt w.store d))) w

def stationDefine (w : Work) (q : Request) : Reply × Work :=
  let i := param q 0 1
  let first := param q 1 2
  let count := param q 3 1
  if Config.stations ≤ i ∨ Config.docks ≤ first ∨ count = 0 ∨ Config.stationDocks < count then
    refuse w .badRequest
  else if rangeRefusal w.store i first count ≠ 0 then
    refuse w .wrongState (rangeRefusal w.store i first count)
  else
    let w := w.moveRange i first count
    let r := { stationAt w.store i with
      isDefined := true, firstDock := first, dockCount := count, settings := stationSettings q }
    ({ outcome := .ok, result := settingsRecord r }, w.setStation i r)

/-- STATION_DEFINE, code 21. -/
def execStationDefine (q : Request) (s : State) : Host.Outcome State Fault Refusal :=
  .next (grantRequest 21#8 (workRule stationDefine) q s)

/-! ## Bike records -/

/-- R19: a bike record as a query gives it. Each kind of place has its field, absent where the bike's place
is of another kind; the card it is held for is given by its serial. -/
def bikeRecord (st : Store) (b : Nat) : List Byte :=
  let r := bikeAt st b
  le 1 r.state.toCode ++
    (match r.place with
      | some (.dock d) =>
        encDock (some d) ++ encStation (dockAt st d).station ++ encStation none ++ encHandle none
      | some (.van v) => encDock none ++ encStation none ++ encStation (some v) ++ encHandle none
      | some (.hire h) => encDock none ++ encStation none ++ encStation none ++ encHandle (some h)
      | none => encDock none ++ encStation none ++ encStation none ++ encHandle none) ++
    encHandle r.hire ++ encSerial (r.heldFor.bind (serialOf st)) ++ encHandle r.fault.ticket ++
    encCause r.fault.pending ++ le 1 r.fault.strikes ++ encFlag r.fault.condemned ++ le 2 r.rides

/-- R16: a bike record as commissioning sets it. -/
def commissionedBike : Bike := ⟨.workshop, none, none, none, noFault, 0⟩

def bikeCommission (w : Work) (q : Request) : Reply × Work :=
  let b := param q 0 2
  if Config.bikes ≤ b then refuse w .badRequest
  else if (bikeAt w.store b).state = .uncommissioned ∨ (bikeAt w.store b).state = .retired then
    let w := w.setBike b commissionedBike
    ({ outcome := .ok, result := bikeRecord w.store b }, w)
  else refuse w .wrongState

/-- BIKE_COMMISSION, code 23. -/
def execBikeCommission (q : Request) (s : State) : Host.Outcome State Fault Refusal :=
  .next (grantRequest 23#8 (workRule bikeCommission) q s)

/-- R17, R93: a subject's pending cause is cleared and it leaves the waiting list. -/
def Work.leaveWaiting (w : Work) (sub : Subject) : Work :=
  w.setWaiting (w.store.faults.waiting.filter (· ≠ sub))

def bikeDecommission (w : Work) (q : Request) : Reply × Work :=
  let b := param q 0 2
  let r := bikeAt w.store b
  if Config.bikes ≤ b then refuse w .badRequest
  else if (r.state ≠ .workshop ∧ r.state ≠ .missing) ∨ r.fault.ticket.isSome then refuse w .wrongState
  else
    let w := w.setBike b
      { r with state := .uncommissioned, place := none, fault := { r.fault with pending := none } }
    let w := w.leaveWaiting (.bike b)
    ({ outcome := .ok, result := bikeRecord w.store b }, w)

/-- BIKE_DECOMMISSION, code 24. -/
def execBikeDecommission (q : Request) (s : State) : Host.Outcome State Fault Refusal :=
  .next (grantRequest 24#8 (workRule bikeDecommission) q s)

/-- R18: a dock record as commissioning sets it; the dock keeps its station. -/
def commissionedDock (r : Dock) : Dock :=
  { r with
    service := .inService, content := .empty, latch := .latched, lastLapse := none
    fault := { r.fault with ticket := none, strikes := 0, condemned := false } }

/-- Whether a content is a bike. -/
def Content.isBike : Content → Bool
  | .bike _ => true
  | _ => false

def dockCommission (w : Work) (q : Request) : Reply × Work :=
  let d := param q 0 2
  let r := dockAt w.store d
  if Config.docks ≤ d then refuse w .badRequest
  else if r.service ≠ .retired ∨ r.content.isBike = true then refuse w .wrongState
  else ({ outcome := .ok }, w.setDock d (commissionedDock r))

/-- DOCK_COMMISSION, code 25. -/
def execDockCommission (q : Request) (s : State) : Host.Outcome State Fault Refusal :=
  .next (grantRequest 25#8 (workRule dockCommission) q s)

/-! ## Queries -/

def bikeQuery (w : Work) (q : Request) : Reply × Work :=
  let b := param q 0 2
  if Config.bikes ≤ b then refuse w .badRequest
  else ({ outcome := .ok, result := bikeRecord w.store b }, w)

/-- BIKE_QUERY, code 36. -/
def execBikeQuery (q : Request) (s : State) : Host.Outcome State Fault Refusal :=
  .next (grantRequest 36#8 (workRule bikeQuery) q s)

/-- R20: the CENSUS part of a station. -/
def censusRecord (r : Station) : List Byte :=
  [r.census.u, r.census.f, r.census.e, r.census.o, r.census.h, r.dockCount].flatMap (le 1) ++
    leInt 1 r.netFlow ++ le 1 r.direction.toCode ++ le 2 r.lastWord.toNat ++ encStation r.claimedBy

def stationQuery (w : Work) (q : Request) : Reply × Work :=
  let i := param q 0 1
  let part := param q 1 1
  let r := stationAt w.store i
  if Config.stations ≤ i ∨ 1 < part then refuse w .badRequest
  else if r.isDefined = false then refuse w .notFound
  else ({ outcome := .ok, result := if part = 0 then censusRecord r else settingsRecord r }, w)

/-- STATION_QUERY, code 37. -/
def execStationQuery (q : Request) (s : State) : Host.Outcome State Fault Refusal :=
  .next (grantRequest 37#8 (workRule stationQuery) q s)

end Sys2Proof.Machine
end

