-- ==== Sys2Proof/Machine/PortOps.lean ====
section
/-! DEFINITION. Start-up and STOP: the setup block with its clamps, INIT and the end of the STOP procedure
(R154, R174 to R178). A setup block is the number its 128 bytes make. -/

namespace Sys2Proof.Machine

/-! ## The setup block (R154, R175, R176, R185) -/

/-- A value brought into a range. -/
def within (lo hi n : Nat) : Nat := max lo (min hi n)

/-- R154: a ring size, brought into 16 to 256 and rounded down to a power of two. -/
def ringSize (n : Nat) : Nat :=
  if n < 32 then 16 else if n < 64 then 32 else if n < 128 then 64 else if n < 256 then 128 else 256

/-- R185: the place of ring `k`: request rings 0 to 3, response rings 4 to 7, the notice ring 8. -/
def blockRing (block k : Nat) : RingPlace := ⟨field block (4 * k) 4, ringSize (field block (36 + 2 * k) 2)⟩

/-- R185: the places of four rings from ring `k` on. -/
def blockRings (block k : Nat) : Table RingPlace :=
  (List.range requestRings).foldl (fun t n => writeAt ⟨0, 0⟩ t n (blockRing block (k + n))) []

/-- Bit `i` of the byte at offset `off`. -/
def flagBit (block off i : Nat) : Bool := field block off 1 / 2 ^ i % 2 == 1

/-- R176: a value with its given flag, default and range. -/
def given (block flag off width standard lo hi : Nat) : Nat :=
  within lo hi (if flagBit block 65 flag then field block off width else standard)

/-- R185: the policy of the cause with code `k`. -/
def blockPolicy (block k : Nat) : Policy :=
  ⟨flagBit block (90 + k) 0, flagBit block (90 + k) 1, flagBit block (90 + k) 2⟩

/-- R175: the cause policy table, under the codes 1 to 10 of the causes. -/
def blockPolicies (block : Nat) : Table Policy :=
  (List.range' 1 10).foldl (fun t k => writeAt noPolicy t k (blockPolicy block k)) []

/-- R175: the local offset, a value outside its range becoming its nearer end. -/
def blockOffset (block : Nat) : Int := max (-50400) (min 50400 (signedField block 66 4))

/-- R176: the overdue point, which is settled before the lost point. -/
def blockOverdue (block : Nat) : Nat := given block 3 76 4 86400 3600 172800

/-- R175, R176: the settings that a setup block gives. -/
def settingsOf (block : Nat) : Settings :=
  { requestRings := blockRings block 0, responseRings := blockRings block 4
    noticeRing := blockRing block 8
    homeIssuer := field block 54 2, acceptMask := BitVec.ofNat 64 (field block 56 8)
    guestAcceptance := flagBit block 64 0, anyIssuer := flagBit block 64 1, checking := flagBit block 64 2
    localOffset := blockOffset block
    serviceInterval := field block 88 2, reportLimit := field block 90 1
    policies := blockPolicies block
    releaseWindow := given block 0 70 2 60 15 120
    reservationHold := given block 1 72 2 600 60 1800
    claimDuration := given block 2 74 2 1200 300 3600
    overduePoint := blockOverdue block
    lostPoint := given block 4 80 4 259200 (blockOverdue block + 3600) 604800
    trendPeriod := given block 5 84 2 600 60 3600
    bikeStrikeLimit := given block 6 86 1 6 1 15
    dockStrikeLimit := given block 7 87 1 4 1 15 }

/-! ## INIT (R174, R177) -/

/-- R177: the store as INIT_FORMAT leaves it; the clock and the captured half are kept.
DEDUCED: so are the unread fields of the active tariff (log entry 19). -/
def formatStore (st : Store) : Store :=
  { fleet := ⟨[], [], [], 0⟩
    cards := ⟨[], [], List.range' 0 Config.cardSlots⟩
    hires := []
    tariff := { st.tariff with loaded := false }
    faults := ⟨[], []⟩
    vans := []
    timer := { st.timer with deadlines := [] } }

/-- R174: an INIT_FORMAT command. -/
def beginFormat (s : State) : State :=
  if s.engine.state = .stopped then { s with engine.state := .initializing .format } else s

/-- R174 step 1: an INIT_KEEP command. -/
def beginKeep (s : State) : State :=
  if s.engine.state = .stopped then
    if s.engine.formatted then { s with engine.state := .initializing .keep }
    else raiseEvent { s with engine.lastInit := .unformatted } initFailed
  else s

/-- R174 steps 3 to 6: the settings, the tables, the notice ring, RUNNING. -/
def completeInit (s : State) (kind : InitKind) (block : Nat) : State :=
  let set := settingsOf block
  raiseEvent
    { s with
      settings := set
      store := match kind with
        | .format => formatStore s.store
        | .keep => s.store
      rings := { s.rings with noticeIndex := 0, notice := set.noticeRing }
      engine := { s.engine with
        state := .running
        formatted := match kind with
          | .format => true
          | .keep => s.engine.formatted
        lastInit := .ok } }
    initDone

/-- R174 step 2: the setup read, and the rest of the INIT when it succeeds. -/
def readSetup (s : State) (kind : InitKind) : State :=
  match busRead s s.port.setupAddress.toNat Config.setupBytes with
  | (none, s) => raiseEvent { s with engine := { s.engine with state := .stopped, lastInit := .busError } } initFailed
  | (some block, s) => completeInit s kind block

/-! ## STOP (R178) -/

/-- R178 step 3: the load in flight, if any, ends with STOPPED. -/
def stopBulk (s : State) : State :=
  match s.bulk with
  | none => s
  | some b => endBulk s b .stopped

/-- R178 steps 3 to 6. -/
def completeStop (s : State) : State := haltEngine (stopBulk s)

end Sys2Proof.Machine
end

