-- ==== Sys2Proof/Machine/Port.lean ====
section
/-! DEFINITION. The commands of the control port: RESET_PIN, INIT_FORMAT, INIT_KEEP, INIT_COMPLETION,
ENGINE_STOP, STOP_COMPLETION, INDEX_PORT_WRITE, EVENT_CLEAR, EVENT_ENABLE_WRITE and CONTROL_WORD_WRITE
(R172 to R181). -/

namespace Sys2Proof.Machine

/-- RESET_PIN. -/
def execResetPin (s : State) : Host.Outcome State Fault Refusal := .next (resetPart false s)

/-- INIT_FORMAT, written to ENGINE. -/
def execInitFormat (s : State) : Host.Outcome State Fault Refusal := .next (portAccess beginFormat s)

/-- INIT_KEEP, written to ENGINE. -/
def execInitKeep (s : State) : Host.Outcome State Fault Refusal := .next (portAccess beginKeep s)

/-- INIT_COMPLETION: the setup read of the INIT in hand ends; with no INIT in hand nothing happens. -/
def execInitCompletion (hub : HubInput) (s : State) : Host.Outcome State Fault Refusal :=
  match s.engine.state with
  | .initializing kind => .next (endCommand (readSetup (beginCommand s hub) kind))
  | .stopped => .next s
  | .running => .next s

/-- ENGINE_STOP, written to ENGINE. -/
def execEngineStop (s : State) : Host.Outcome State Fault Refusal := .next (stopEngine s)

/-- STOP_COMPLETION: steps 3 to 6 of a pending STOP; with no STOP pending nothing happens. -/
def execStopCompletion (hub : HubInput) (s : State) : Host.Outcome State Fault Refusal :=
  if s.engine.state = .running ∧ s.engine.stopPending = true then
    .next (endCommand (completeStop (beginCommand s hub)))
  else .next s

/-- R172: a value written to the index port, mod 16. -/
def writeIndex (s : State) (value : BitVec 16) : State := { s with port.index := value.setWidth 4 }

/-- INDEX_PORT_WRITE. -/
def execIndexPortWrite (value : BitVec 16) (s : State) : Host.Outcome State Fault Refusal :=
  .next (portAccess (writeIndex · value) s)

/-- R181: a write to EVENT. -/
def clearEvents (s : State) (value : BitVec 16) : State :=
  { s with port.events := s.port.events &&& ~~~(value.setWidth 10) }

/-- EVENT_CLEAR. -/
def execEventClear (value : BitVec 16) (s : State) : Host.Outcome State Fault Refusal :=
  .next (portAccess (clearEvents · value) s)

/-- R181: a write to EVENT_ENABLE. -/
def setEnables (s : State) (value : BitVec 16) : State := { s with port.enables := value.setWidth 10 }

/-- EVENT_ENABLE_WRITE. -/
def execEventEnableWrite (value : BitVec 16) (s : State) : Host.Outcome State Fault Refusal :=
  .next (portAccess (setEnables · value) s)

/-! ## Writes of the data port (R172) -/

/-- R173, R184: an engine command. -/
def engineCommand (s : State) (value : BitVec 16) : State :=
  match value.toNat with
  | 1 => beginFormat s
  | 2 => beginKeep s
  | 3 => stopEngine s
  | _ => s

/-- R172: SETUP_ADDRESS low, taken in STOPPED. -/
def writeAddressLow (s : State) (value : BitVec 16) : State :=
  if s.engine.state = .stopped then
    { s with port.setupAddress := (s.port.setupAddress >>> 16).setWidth 16 ++ value }
  else s

/-- R172: SETUP_ADDRESS high, taken in STOPPED. -/
def writeAddressHigh (s : State) (value : BitVec 16) : State :=
  if s.engine.state = .stopped then
    { s with port.setupAddress := value ++ s.port.setupAddress.setWidth 16 }
  else s

/-- R158, R184: a ring command by the bits of RING_COMMAND. -/
def ringCommand (s : State) (value : BitVec 16) : State :=
  let n := (value.extractLsb' 0 3).toNat
  match (value.extractLsb' 4 4).toNat with
  | 1 => startRing s n
  | 2 => kickRing s n
  | 3 => resumeRing s n
  | 4 => stopRing s n
  | _ => s

/-- R172: a write to the data port, by the word that the index register selects. -/
def writeControlWord (s : State) (value : BitVec 16) : State :=
  match s.port.index.toNat with
  | 0 => engineCommand s value
  | 1 => writeAddressLow s value
  | 2 => writeAddressHigh s value
  | 3 => ringCommand s value
  | 5 => clearEvents s value
  | 6 => setEnables s value
  | _ => s

/-- CONTROL_WORD_WRITE. -/
def execControlWordWrite (value : BitVec 16) (hub : HubInput) (s : State) :
    Host.Outcome State Fault Refusal :=
  .next (endCommand (portAccess (writeControlWord · value) (beginCommand s hub)))

end Sys2Proof.Machine
end

