-- ==== Sys2Proof/Machine/Rings.lean ====
section
/-! DEFINITION. The ring commands RING_START, KICK, RESUME and RING_STOP (R158, R159), and the grants to a
ring that carry out no rule of a code: GRANT_WITHOUT_WORK (R160, R170) and UNKNOWN_REQUEST_CODE (R161,
R171). -/

namespace Sys2Proof.Machine

/-- RING_START. -/
def execRingStart (ring : Nat) (hub : HubInput) (s : State) : Host.Outcome State Fault Refusal :=
  .next (endCommand (startRing (beginCommand s hub) ring))

/-- KICK. -/
def execKick (ring : Nat) (hub : HubInput) (s : State) : Host.Outcome State Fault Refusal :=
  .next (endCommand (kickRing (beginCommand s hub) ring))

/-- RESUME. -/
def execResume (ring : Nat) (hub : HubInput) (s : State) : Host.Outcome State Fault Refusal :=
  .next (endCommand (resumeRing (beginCommand s hub) ring))

/-- RING_STOP, written while no request of the ring is in hand; `Request.stopRing` is the one written
while it is. -/
def execRingStop (ring : Nat) (s : State) : Host.Outcome State Fault Refusal :=
  .next (settleCounts (stopRing s ring))

/-- The rule of a code that is never reached: the descriptor check has answered. -/
def noRule (s : State) (_ : Request) : Handled := .answered s { outcome := .badRequest } []

/-- GRANT_WITHOUT_WORK: a grant that reads a descriptor no longer handed to the part. A descriptor that is
handed to the part is not one of this command, and nothing happens. -/
def execGrantWithoutWork (code : Byte) (q : Request) (s : State) : Host.Outcome State Fault Refusal :=
  if owned q then .next s else .next (grantRequest code noRule q s)

/-- R161, R171: whether no code of the descriptor can be acted on: it fails the descriptor check, or its
code names no request. -/
def codeUnknown (s : State) (code : Byte) (q : Request) : Bool :=
  (s.settings.checking && descriptorSum code q != 255) || (codeEntry code).isNone

/-- UNKNOWN_REQUEST_CODE. A descriptor with a code of the part that passes the descriptor check is not one
of this command, and nothing happens. -/
def execUnknownRequestCode (code : Byte) (q : Request) (s : State) : Host.Outcome State Fault Refusal :=
  if codeUnknown s code q then .next (grantRequest code noRule q s) else .next s

end Sys2Proof.Machine
end

