-- ==== Sys2Proof/Machine/Tariff.lean ====
section
/-! DEFINITION. TARIFF_LOAD: the reading, the checks, the clamps and the installing of a tariff block
(R76 to R79, layout R185). A block is the number that its 300 bytes make. -/

namespace Sys2Proof.Machine

/-! ## Reading the block (R185) -/

/-- R185: the start of each curve's knot places, and the byte of its knot count. -/
def memberKnots : Nat := 74
def casualKnots : Nat := 170
def memberCount : Nat := 72
def casualCount : Nat := 73

/-- R185: the knots that a curve counts. -/
def blockCurve (block at_ count : Nat) : List Knot :=
  (List.range count).map (fun i => ⟨field block (at_ + 6 * i) 2, field block (at_ + 6 * i + 2) 4⟩)

def blockMemberCurve (block : Nat) : List Knot := blockCurve block memberKnots (field block memberCount 1)
def blockCasualCurve (block : Nat) : List Knot := blockCurve block casualKnots (field block casualCount 1)

/-- R185: grid G and the counted windows. -/
def blockGrid (block : Nat) : Nat := field block 266 1
def blockWindowCount (block : Nat) : Nat := field block 267 1
def blockWindows (block : Nat) : List Window :=
  (List.range (blockWindowCount block)).map (fun i =>
    ⟨field block (268 + 5 * i) 2, field block (270 + 5 * i) 2, field block (272 + 5 * i) 1⟩)

/-- R185: the parameters of the class with code `k`, before the clamps of R78. DEDUCED: only
the floor is signed (log entry 18). -/
def blockClass (block k : Nat) : ClassParams :=
  { hold := (field block (18 * k) 4 : Nat), releaseMin := (field block (18 * k + 4) 4 : Nat)
    freeMinutes := field block (18 * k + 8) 2, dailyCap := field block (18 * k + 10) 4
    floor := signedField block (18 * k + 14) 4 }

/-- R185: the tariff that a block gives, before the clamps of R78. -/
def blockTariff (block : Nat) : Tariff :=
  { member := blockClass block 0, casual := blockClass block 1
    guest := blockClass block 2, crew := blockClass block 3
    memberCurve := blockMemberCurve block, casualCurve := blockCasualCurve block
    grid := blockGrid block, windows := blockWindows block, grace := field block 288 2
    billingStep := field block 290 1, waiverWindow := field block 291 2
    lostFee := (field block 293 4 : Nat) }

/-! ## The checks (R77) -/

/-- R77 check 2: a curve has 2 to 16 knots. -/
def goodCount (c : List Knot) : Bool := decide (2 ≤ c.length) && decide (c.length ≤ 16)

/-- R77 check 3: the first position is 0. -/
def goodFirst (c : List Knot) : Bool :=
  match c with
  | [] => false
  | k :: _ => k.pos == 0

/-- R77 check 4: each position is above the one before it. -/
def goodOrder : List Knot → Bool
  | k :: l :: rest => decide (k.pos < l.pos) && goodOrder (l :: rest)
  | _ => true

/-- R77 check 5: no value falls, and none is above the greatest fare. -/
def goodValues : List Knot → Bool
  | [] => true
  | [k] => decide (k.value ≤ Config.fareMax)
  | k :: l :: rest =>
    decide (k.value ≤ Config.fareMax) && decide (k.value ≤ l.value) && goodValues (l :: rest)

/-- R75, R77 check 6: the grids. -/
def goodGrid (g : Nat) : Bool := g == 1 || g == 5 || g == 10 || g == 15

/-- R77 check 7: at most 4 windows, no counted step above the steps of a day. -/
def goodWindows (grid : Nat) (count : Nat) (l : List Window) : Bool :=
  decide (count ≤ 4) && l.all (fun w => decide (w.start ≤ 1440 / grid) && decide (w.stop ≤ 1440 / grid))

/-- R184: the curve of a BAD_TARIFF. -/
def curveMember : Nat := 0
def curveCasual : Nat := 1

/-- R77: a check of both curves, the member curve first: the curve that fails. -/
def curveCheck (t : Tariff) (good : List Knot → Bool) : Option Nat :=
  if good t.memberCurve then if good t.casualCurve then none else some curveCasual else some curveMember

/-- R77: the first failing check, its reason and, for the curve checks, the curve. -/
def tariffRefusal (checking : Bool) (block : Nat) : Option (Nat × List Byte) :=
  let t := blockTariff block
  if checking ∧ byteSum Config.tariffBytes block ≠ 255 then some (reasonCheck, [])
  else
    match curveCheck t goodCount with
    | some c => some (reasonKnotCount, le 1 c)
    | none =>
      match curveCheck t goodFirst with
      | some c => some (reasonFirstKnot, le 1 c)
      | none =>
        match curveCheck t goodOrder with
        | some c => some (reasonKnotOrder, le 1 c)
        | none =>
          match curveCheck t goodValues with
          | some c => some (reasonKnotValue, le 1 c)
          | none =>
            if goodGrid t.grid = false then some (reasonGrid, [])
            else if goodWindows t.grid (blockWindowCount block) t.windows = false then some (reasonWindow, [])
            else none

/-! ## The clamps (R78) -/

/-- A value brought into a range. -/
def clampNat (lo hi n : Nat) : Nat := max lo (min hi n)
def clampInt (lo hi i : Int) : Int := max lo (min hi i)

/-- R78: the parameters of a class, clamped. -/
def clampClass (p : ClassParams) : ClassParams :=
  { hold := clampInt 0 1000000 p.hold, releaseMin := clampInt 0 1000000 p.releaseMin
    freeMinutes := p.freeMinutes, dailyCap := clampNat 0 Config.fareMax p.dailyCap
    floor := clampInt (-1000000) 0 p.floor }

/-- R78: a counted window, its factor clamped. -/
def clampWindow (w : Window) : Window := { w with factor := clampNat 64 128 w.factor }

/-- R78: the tariff clamped. -/
def clampTariff (t : Tariff) : Tariff :=
  { t with
    member := clampClass t.member, casual := clampClass t.casual
    guest := clampClass t.guest, crew := clampClass t.crew
    windows := t.windows.map clampWindow, grace := clampNat 0 300 t.grace
    billingStep := clampNat 1 60 t.billingStep, waiverWindow := clampNat 0 300 t.waiverWindow
    lostFee := clampInt 0 1000000 t.lostFee }

/-- The class parameter sets of a tariff, in class order. -/
def classSets (t : Tariff) : List ClassParams := [t.member, t.casual, t.guest, t.crew]

/-- R79, R184: the clamp flags, one bit for each group of R78, set when some value of it was clamped. -/
def clampFlags (t : Tariff) : Nat :=
  let c := clampTariff t
  (if c.windows = t.windows then 0 else 1) + (if c.grace = t.grace then 0 else 2) +
    (if c.billingStep = t.billingStep then 0 else 4) + (if c.waiverWindow = t.waiverWindow then 0 else 8) +
    (if (classSets c).map (fun p => (p.hold, p.releaseMin)) =
        (classSets t).map (fun p => (p.hold, p.releaseMin)) then 0 else 16) +
    (if (classSets c).map ClassParams.dailyCap = (classSets t).map ClassParams.dailyCap then 0 else 32) +
    (if (classSets c).map ClassParams.floor = (classSets t).map ClassParams.floor then 0 else 64) +
    (if c.lostFee = t.lostFee then 0 else 128)

/-! ## TARIFF_LOAD -/

/-- R77 to R79: checks a block that has been read, and installs it. -/
def installTariff (checking : Bool) (st : Store) (block : Nat) : Store × Reply :=
  match tariffRefusal checking block with
  | some (reason, curve) => (st, { outcome := .badTariff, reason := reason, result := curve })
  | none =>
    let t := blockTariff block
    ({ st with tariff := ⟨true, clampTariff t⟩ },
      { outcome := .ok, result := le 1 t.windows.length ++ le 1 (clampFlags t) })

/-- R76: TARIFF_LOAD. -/
def tariffLoad (s : State) (q : Request) : Handled :=
  if param q 4 2 < Config.tariffBytes then .answered s { outcome := .badLength } []
  else
    match busRead s (param q 0 4) Config.tariffBytes with
    | (none, s) => .answered s { outcome := .busError } []
    | (some block, s) =>
      let (st, r) := installTariff s.settings.checking s.store block
      .answered { s with store := st } r []

/-- TARIFF_LOAD, code 20. -/
def execTariffLoad (q : Request) (s : State) : Host.Outcome State Fault Refusal :=
  .next (grantRequest 20#8 tariffLoad q s)

end Sys2Proof.Machine
end

