-- ==== Sys2Proof/Machine/Faults.lean ====
section
/-! DEFINITION. The requests that raise and close faults: DOCK_STATUS, CREW_FLAG, FIELD_CLEAR,
WORKSHOP_DROP, TICKET_CLOSE, DOCK_RESTORE and TICKET_QUERY (R101 to R107), and the checks that every van
request meets (R112). -/

namespace Sys2Proof.Machine

/-! ## The checks of every van request (R112) -/

/-- R184: a crew serial that names no card. DEDUCED: refused before the checks of R112 (log entry 15). -/
def crewAbsent (q : Request) : Bool := param q 1 7 == Config.serialAbsent

/-- R112: the first failing check of a van request of van `v` with crew serial `serial`. -/
def crewRefusal (st : Store) (v serial : Nat) : Option Reply :=
  if Config.vans ≤ v then some { outcome := .badRequest }
  else if (vanAt st v).isDefined = false then some { outcome := .notFound }
  else
    match (vanAt st v).crew with
    | none => some { outcome := .crewRefused, reason := reasonOffShift }
    | some k => if k = serial then none else some { outcome := .crewRefused, reason := reasonCrew }

/-- A van request: the checks of R112, then its own rule for the van. -/
def crewed (w : Work) (q : Request) (rule : Nat → Reply × Work) : Reply × Work :=
  if crewAbsent q then refuse w .badRequest
  else
    match crewRefusal w.store (param q 0 1) (param q 1 7) with
    | some r => (r, w)
    | none => rule (param q 0 1)

/-- R102, R103, R123: whether a van holds a claim on the station of a dock. -/
def claimsDock (st : Store) (v d : Nat) : Bool :=
  match (vanAt st v).claim, (dockAt st d).station with
  | some c, some i => c.station == i
  | _, _ => false

/-- R102, R103: the refusal that a bike's place gives to a crew of van `v`. -/
def placeRefusal (st : Store) (v : Nat) : Option Place → Option OutcomeCode
  | some (.dock d) => if claimsDock st v d then none else some .notClaimed
  | some (.van u) => if u = v then none else some .wrongState
  | some (.hire _) => some .wrongState
  | none => some .wrongState

/-! ## DOCK_STATUS, CREW_FLAG -/

/-- R101: what is given with an indication: the ticket id for OPENED, the position for WAITING, the ticket id
or the pending cause for MERGED. -/
def FaultResult.given : FaultResult → List Byte
  | .opened id => encHandle (some id)
  | .waiting _ n => le 2 n
  | .mergedTicket id => encHandle (some id)
  | .mergedPending c _ => encCause (some c)
  | .none => []
  | .notRaised => []

/-- R101, R184: the response to a request that raises one fault: the indication with what it gives, and for a
raised fault the strikes and the condemned flag after it. -/
def indicationRecord (st : Store) (sub : Subject) (f : FaultResult) : List Byte :=
  if f = .none ∨ f = .notRaised then le 1 f.toCode
  else le 1 f.toCode ++ f.given ++ le 1 (faultOf st sub).strikes ++ encFlag (faultOf st sub).condemned

/-- R101, R184: the cause that a report raises. -/
def reportCause (report : Nat) : Option Cause :=
  if report = 1 then some .dLatch
  else if report = 2 then some .dReader
  else if report = 3 then some .dPower
  else none

/-- Raises a fault for a request, and answers with its indication. -/
def answerFault (w : Work) (sub : Subject) (c : Cause) : Reply × Work :=
  let (w, f) := w.raiseFault sub c none
  ({ outcome := .ok, result := indicationRecord w.store sub f }, w)

def dockStatus (w : Work) (q : Request) : Reply × Work :=
  let d := param q 0 2
  let report := param q 2 1
  if Config.docks ≤ d ∨ 3 < report then refuse w .badRequest
  else if (dockAt w.store d).service = .undefined then refuse w .dockUnavailable
  else
    match reportCause report with
    | none => ({ outcome := .ok, result := indicationRecord w.store (.dock d) .none }, w)
    | some c => answerFault w (.dock d) c

/-- DOCK_STATUS, code 3. -/
def execDockStatus (q : Request) (s : State) : Host.Outcome State Fault Refusal :=
  .next (grantRequest 3#8 (workRule dockStatus) q s)

def crewFlag (w : Work) (q : Request) : Reply × Work :=
  crewed w q (fun v =>
    let b := param q 8 2
    if Config.bikes ≤ b then refuse w .badRequest
    else
      match placeRefusal w.store v (bikeAt w.store b).place with
      | some o => refuse w o
      | none => answerFault w (.bike b) .bCrewFlag)

/-- CREW_FLAG, code 17. -/
def execCrewFlag (q : Request) (s : State) : Host.Outcome State Fault Refusal :=
  .next (grantRequest 17#8 (workRule crewFlag) q s)

/-! ## FIELD_CLEAR, TICKET_CLOSE -/

/-- R99: the response of a closing request. -/
def servedRecord (served : Option (Handle × Subject)) : List Byte :=
  encHandle (served.map Prod.fst) ++ encSubject (served.map Prod.snd)

def closingRecord (id : Handle) (c : Closing) : List Byte :=
  encHandle (some id) ++ encSubject (some c.subject) ++ encCause (some c.cause) ++ encFlag c.retired ++
    servedRecord c.served

/-- R99: closes a ticket for a request, and answers. -/
def answerClose (w : Work) (id : Handle) (t : Ticket) (overhaul : Bool) : Reply × Work :=
  let (w, c) := w.closeTicket id t overhaul
  ({ outcome := .ok, result := closingRecord id c }, w)

/-- R92: the ticket that a request's id names, or the refusal. -/
def namedTicket (st : Store) (id : Handle) : Except OutcomeCode Ticket :=
  if Config.ticketSlots ≤ id.slot then .error .badRequest
  else
    match ticketAt st id with
    | none => .error .staleId
    | some t => .ok t

/-- R103 check 3. -/
def subjectRefusal (st : Store) (v : Nat) : Subject → Option OutcomeCode
  | .dock d => if claimsDock st v d then none else some .notClaimed
  | .bike b => placeRefusal st v (bikeAt st b).place

/-- R98, R103, R105: whether a subject is a condemned bike in a state from which it cannot retire. -/
def cannotRetire (st : Store) (states : List BikeState) : Subject → Bool
  | .dock _ => false
  | .bike b => (bikeAt st b).fault.condemned && !states.contains (bikeAt st b).state

/-- R103 check 5: whether a crew may close a ticket of a cause. -/
def fieldCloses (set : Settings) (c : Cause) : Bool :=
  decide (c.recovery = .field) || (policyOf set c).fieldOverride

def fieldClear (w : Work) (q : Request) : Reply × Work :=
  crewed w q (fun v =>
    let id := handleParam q 8
    match namedTicket w.store id with
    | .error o => refuse w o
    | .ok t =>
      match subjectRefusal w.store v t.subject with
      | some o => refuse w o
      | none =>
        if cannotRetire w.store [.docked] t.subject then refuse w .wrongState
        else if fieldCloses w.set t.cause then answerClose w id t false
        else refuse w .workshopOnly)

/-- FIELD_CLEAR, code 16. -/
def execFieldClear (q : Request) (s : State) : Host.Outcome State Fault Refusal :=
  .next (grantRequest 16#8 (workRule fieldClear) q s)

def ticketClose (w : Work) (q : Request) : Reply × Work :=
  let id := handleParam q 0
  let overhaul := param q 3 1
  if 1 < overhaul then refuse w .badRequest
  else
    match namedTicket w.store id with
    | .error o => refuse w o
    | .ok t =>
      if cannotRetire w.store [.docked, .workshop] t.subject then refuse w .wrongState
      else answerClose w id t (overhaul == 1)

/-- TICKET_CLOSE, code 33. -/
def execTicketClose (q : Request) (s : State) : Host.Outcome State Fault Refusal :=
  .next (grantRequest 33#8 (workRule ticketClose) q s)

/-! ## WORKSHOP_DROP -/

/-- R104: bike `b` leaves van `v` for the workshop. -/
def Work.dropBike (w : Work) (v b : Nat) : Work :=
  let w := w.leaveManifest v b
  let w := w.setBike b { bikeAt w.store b with state := .workshop, place := none }
  w.moveTicket b .inWorkshop

def workshopDrop (w : Work) (q : Request) : Reply × Work :=
  crewed w q (fun v =>
    let b := param q 8 2
    if Config.bikes ≤ b then refuse w .badRequest
    else if (vanAt w.store v).manifest.contains b then
      let w := w.dropBike v b
      ({ outcome := .ok
         result := encBike (some b) ++ encHandle (bikeAt w.store b).fault.ticket ++
           le 1 (vanAt w.store v).manifest.length }, w)
    else refuse w .wrongState)

/-- WORKSHOP_DROP, code 14. -/
def execWorkshopDrop (q : Request) (s : State) : Host.Outcome State Fault Refusal :=
  .next (grantRequest 14#8 (workRule workshopDrop) q s)

/-! ## DOCK_RESTORE -/

/-- R106: clears the pending cause of dock `d`; gives whether the dock retired. -/
def Work.clearPending (w : Work) (d : Nat) : Work × Bool :=
  let f := { (dockAt w.store d).fault with pending := none }
  let w := (w.setFault (.dock d) f).setWaiting (w.store.faults.waiting.filter (· ≠ .dock d))
  (if f.condemned then w.retire (.dock d) else w, f.condemned)

def dockRestore (w : Work) (q : Request) : Reply × Work :=
  let d := param q 0 2
  let f := (dockAt w.store d).fault
  if Config.docks ≤ d then refuse w .badRequest
  else
    match f.ticket.bind (fun id => (ticketAt w.store id).map (fun t => (id, t))), f.pending with
    | some (id, t), _ =>
      let (w, c) := w.closeTicket id t false
      ({ outcome := .ok
         result := le 1 0 ++ encHandle (some id) ++ encFlag c.retired ++ servedRecord c.served }, w)
    | none, some p =>
      let (w, retired) := w.clearPending d
      ({ outcome := .ok, result := le 1 1 ++ encCause (some p) ++ encFlag retired }, w)
    | none, none => refuse w .wrongState

/-- DOCK_RESTORE, code 34. -/
def execDockRestore (q : Request) (s : State) : Host.Outcome State Fault Refusal :=
  .next (grantRequest 34#8 (workRule dockRestore) q s)

/-! ## TICKET_QUERY -/

/-- R107: BY_TICKET. -/
def ticketRecord (w : Work) (id : Handle) (t : Ticket) : List Byte :=
  let f := faultOf w.store t.subject
  encHandle (some id) ++ encSubject (some t.subject) ++ encCause (some t.cause) ++ le 1 t.state.toCode ++
    encOptClock t.openedTime ++ encSerial t.reporter ++ le 1 f.strikes ++ encFlag f.condemned ++
    le 1 t.cause.recovery.toCode ++ encFlag (policyOf w.set t.cause).fieldOverride

/-- R107: the bike's state or the dock's service. -/
def standingCode (st : Store) : Subject → Nat
  | .bike b => (bikeAt st b).state.toCode
  | .dock d => (dockAt st d).service.toCode

/-- R107: a ticket state, 255 when there is no ticket. -/
def encTicketState : Option Ticket → List Byte
  | some t => le 1 t.state.toCode
  | none => le 1 255

/-- R107: BY_SUBJECT. -/
def subjectRecord (st : Store) (sub : Subject) : List Byte :=
  let f := faultOf st sub
  encHandle f.ticket ++ encTicketState (f.ticket.bind (ticketAt st)) ++ encCause f.pending ++
    le 2 (waitingPosition st sub) ++ le 1 f.strikes ++ encFlag f.condemned ++ le 1 (standingCode st sub)

/-- R107: the number of tickets in a state, and of free slots. -/
def ticketsIn (st : Store) (s : TicketState) : Nat :=
  (List.range Config.ticketSlots).countP (fun k =>
    match (ticketSlotAt st k).ticket with
    | some t => decide (t.state = s)
    | none => false)
def freeTickets (st : Store) : Nat :=
  (List.range Config.ticketSlots).countP (fun k => (ticketSlotAt st k).ticket.isNone)

/-- R107: SUMMARY. -/
def summaryRecord (st : Store) : List Byte :=
  le 2 (ticketsIn st .opened) ++ le 2 (ticketsIn st .collected) ++ le 2 (ticketsIn st .inWorkshop) ++
    le 2 (freeTickets st) ++ le 2 st.faults.waiting.length ++ encSubject st.faults.waiting.head? ++
    encCause (st.faults.waiting.head?.bind (fun sub => (faultOf st sub).pending))

/-- R184: a subject parameter, none when its kind or its number is out of range. -/
def subjectParam (kind n : Nat) : Option Subject :=
  if kind = 0 ∧ n < Config.bikes then some (.bike n)
  else if kind = 1 ∧ n < Config.docks then some (.dock n)
  else none

def ticketQuery (w : Work) (q : Request) : Reply × Work :=
  let form := param q 0 1
  if form = 0 then
    let id := handleParam q 1
    match namedTicket w.store id with
    | .error o => refuse w o
    | .ok t => ({ outcome := .ok, result := ticketRecord w id t }, w)
  else if form = 1 then
    match subjectParam (param q 1 1) (param q 2 2) with
    | none => refuse w .badRequest
    | some sub => ({ outcome := .ok, result := subjectRecord w.store sub }, w)
  else if form = 2 then ({ outcome := .ok, result := summaryRecord w.store }, w)
  else refuse w .badRequest

/-- TICKET_QUERY, code 35. -/
def execTicketQuery (q : Request) (s : State) : Host.Outcome State Fault Refusal :=
  .next (grantRequest 35#8 (workRule ticketQuery) q s)

end Sys2Proof.Machine
end

