-- ==== Sys2Proof/Machine/Vans.lean ====
section
/-! DEFINITION. The rebalancing vans: VAN_DEFINE, VAN_SHIFT_START, VAN_SHIFT_END, VAN_SUGGEST, VAN_CLAIM,
VAN_RELEASE_CLAIM, VAN_LOAD, WORKSHOP_PICKUP, VAN_QUERY and the expiries of a load window and of a claim
(R111 to R131). -/

namespace Sys2Proof.Machine

/-- R184: a manifest as a list, its count first. -/
def manifestRecord (l : List Nat) : List Byte := le 1 l.length ++ l.flatMap (fun b => encBike (some b))

/-! ## VAN_DEFINE -/

/-- R111: the bikes that a van's capacity must hold, a loading one included. -/
def bikesHeld (r : Van) : Nat := r.manifest.length + (if r.load.isSome then 1 else 0)

def vanDefine (w : Work) (q : Request) : Reply × Work :=
  let v := param q 0 1
  let capacity := param q 1 1
  let r := vanAt w.store v
  if Config.vans ≤ v ∨ capacity = 0 ∨ Config.vanCapacity < capacity then refuse w .badRequest
  else if r.isDefined = true ∧ capacity < bikesHeld r then refuse w .wrongState
  else
    let r := { r with isDefined := true, capacity := capacity }
    ({ outcome := .ok, result := le 1 capacity ++ le 1 (freePlaces r) }, w.setVan v r)

/-- VAN_DEFINE, code 22. -/
def execVanDefine (q : Request) (s : State) : Host.Outcome State Fault Refusal :=
  .next (grantRequest 22#8 (workRule vanDefine) q s)

/-! ## Shifts -/

/-- R113 check 7: whether another van ON_SHIFT has this serial as its crew card. -/
def crewInUse (st : Store) (v serial : Nat) : Bool :=
  (List.range Config.vans).any (fun u => u != v && (vanAt st u).crew == some serial)

/-- R113: the first failing check of a VAN_SHIFT_START. -/
def shiftRefusal (st : Store) (v serial : Nat) : Option Reply :=
  if Config.vans ≤ v then some { outcome := .badRequest }
  else if (vanAt st v).isDefined = false then some { outcome := .notFound }
  else if (vanAt st v).crew.isSome then some { outcome := .wrongState }
  else
    match namedCard st serial with
    | none => some { outcome := .crewRefused, reason := reasonAbsent }
    | some (_, c) =>
      if c.cls ≠ .crew then some { outcome := .crewRefused, reason := reasonClass }
      else if c.status ≠ .active then some { outcome := .crewRefused, reason := reasonStatus }
      else if crewInUse st v serial then some { outcome := .crewRefused, reason := reasonInUse }
      else none

def vanShiftStart (w : Work) (q : Request) : Reply × Work :=
  let v := param q 0 1
  let serial := param q 1 7
  if crewAbsent q then refuse w .badRequest
  else
    match shiftRefusal w.store v serial with
    | some r => (r, w)
    | none =>
      let r := { vanAt w.store v with crew := some serial }
      ({ outcome := .ok, result := le 1 r.capacity ++ le 1 (freePlaces r) ++ manifestRecord r.manifest },
        w.setVan v r)

/-- VAN_SHIFT_START, code 8. -/
def execVanShiftStart (q : Request) (s : State) : Host.Outcome State Fault Refusal :=
  .next (grantRequest 8#8 (workRule vanShiftStart) q s)

def vanShiftEnd (w : Work) (q : Request) : Reply × Work :=
  crewed w q (fun v =>
    if (vanAt w.store v).load.isSome then refuse w .busy
    else
      let (w, released) := w.clearClaim v
      let r := vanAt w.store v
      ({ outcome := .ok, result := encStation released ++ le 1 r.manifest.length },
        w.setVan v { r with crew := none }))

/-- VAN_SHIFT_END, code 9. -/
def execVanShiftEnd (q : Request) (s : State) : Host.Outcome State Fault Refusal :=
  .next (grantRequest 9#8 (workRule vanShiftEnd) q s)

/-! ## Bands and urgency (R115, R116) -/

/-- R115: the band in force of a station. -/
def bandInForce (set : Settings) (st : Store) (r : Station) : Band :=
  if peakTest set st then r.settings.peakBand else r.settings.offPeakBand

/-- R116: deficit and surplus. -/
def deficit (band : Band) (u : Nat) : Nat := band.low - u
def surplus (band : Band) (u : Nat) : Nat := u - band.high

/-- R116: the deliver score of a station that has an urgency. -/
def deliverScore (band : Band) (r : Station) : Nat :=
  let n := deficit band r.census.u
  4 * n + (if 0 < n ∧ r.census.u = 0 then 8 else 0) + (if 0 < n ∧ r.direction = .emptying then 2 else 0)

/-- R116: the collect score of a station that has an urgency. -/
def collectScore (band : Band) (r : Station) : Nat :=
  let n := surplus band r.census.u
  4 * n + 3 * r.census.f + (if 0 < n ∧ r.census.e = 0 then 8 else 0) +
    (if 0 < n ∧ r.direction = .filling then 2 else 0)

/-! ## VAN_SUGGEST (R118, R119) -/

/-- R118: the kinds of job. -/
inductive Job where
  | deliver | collect
deriving DecidableEq, Repr

def Job.toCode : Job → Nat
  | .deliver => 0 | .collect => 1

/-- R118: whether deliver is applicable to a van. -/
def deliverApplies (st : Store) (r : Van) : Bool := r.manifest.any (fun b => !blocked (bikeAt st b).fault)

/-- R118: whether collect is applicable to a van. -/
def collectApplies (r : Van) : Bool := decide (0 < freePlaces r)

/-- R118, R184: whether a mode asks for a job: DELIVER 0, COLLECT 1, ANY 2. -/
def modeWants (mode : Nat) : Job → Bool
  | .deliver => mode == 0 || mode == 2
  | .collect => mode == 1 || mode == 2

/-- R118: the job and the score of a station for a van under a mode. -/
def jobScore (set : Settings) (st : Store) (v mode i : Nat) : Job × Nat :=
  let r := stationAt st i
  let band := bandInForce set st r
  let d := if modeWants mode .deliver && deliverApplies st (vanAt st v) then deliverScore band r else 0
  let c := if modeWants mode .collect && collectApplies (vanAt st v) then collectScore band r else 0
  if c ≤ d ∧ 0 < d then (.deliver, d) else (.collect, c)

/-- R118: the candidates of a van. -/
def candidate (st : Store) (v i : Nat) : Bool :=
  let r := stationAt st i
  r.isDefined && !closed r && (r.claimedBy == none || r.claimedBy == some v)

/-- R118: of two candidates in order of index, the one with the higher score, the earlier on a tie. -/
def betterStation (score : Nat → Nat) (best : Option Nat) (i : Nat) : Option Nat :=
  match best with
  | none => if 0 < score i then some i else none
  | some j => if score j < score i then some i else some j

/-- R118: the chosen station. -/
def chooseStation (set : Settings) (st : Store) (v mode : Nat) : Option Nat :=
  ((List.range Config.stations).filter (candidate st v)).foldl
    (betterStation (fun i => (jobScore set st v mode i).2)) none

/-- R117, R119: the van's claim is cleared and set on station `i`; gives the station given up. -/
def Work.moveClaim (w : Work) (v i : Nat) : Work × Option Nat :=
  let (w, old) := w.clearClaim v
  (w.setClaim v i, if old = some i then none else old)

/-- R117: the expiry time of a claim set now. -/
def claimDue (w : Work) : Nat := dueAt w.now w.set.claimDuration

/-- R119: the response to a taken VAN_SUGGEST, but for the station given up. -/
def suggestRecord (w : Work) (v mode i : Nat) : List Byte :=
  let r := stationAt w.store i
  let band := bandInForce w.set w.store r
  let (job, score) := jobScore w.set w.store v mode i
  encStation (some i) ++ le 1 job.toCode ++ le 2 score ++ le 1 band.low ++ le 1 band.high ++
    encFlag (peakTest w.set w.store) ++ le 1 r.census.u ++ le 1 r.census.f ++ le 1 r.census.e ++
    le 1 (match job with
      | .deliver => deficit band r.census.u
      | .collect => surplus band r.census.u) ++
    encClock (claimDue w)

def vanSuggest (w : Work) (q : Request) : Reply × Work :=
  crewed w q (fun v =>
    let mode := param q 8 1
    if 2 < mode then refuse w .badRequest
    else if w.store.timer.clock.isNone then refuse w .noTime
    else if (vanAt w.store v).load.isSome then refuse w .busy
    else
      match chooseStation w.set w.store v mode with
      | none => refuse w .noJob
      | some i =>
        let record := suggestRecord w v mode i
        let (w, old) := w.moveClaim v i
        ({ outcome := .ok, result := record ++ encStation old }, w))

/-- VAN_SUGGEST, code 10. -/
def execVanSuggest (q : Request) (s : State) : Host.Outcome State Fault Refusal :=
  .next (grantRequest 10#8 (workRule vanSuggest) q s)

/-! ## VAN_CLAIM, VAN_RELEASE_CLAIM -/

/-- R120: whether the van already claims a station. -/
def claimsStation (st : Store) (v i : Nat) : Bool := (vanAt st v).claim.map Claim.station == some i

/-- R120: the first failing check of a VAN_CLAIM after those of R112. -/
def claimRefusal (st : Store) (v i : Nat) : Option Reply :=
  if Config.stations ≤ i then some { outcome := .badRequest }
  else if st.timer.clock.isNone then some { outcome := .noTime }
  else if (vanAt st v).load.isSome then some { outcome := .busy }
  else if (stationAt st i).isDefined = false then some { outcome := .notFound }
  else
    match (stationAt st i).claimedBy with
    | none => none
    | some u => if u = v then none else some { outcome := .claimTaken, result := encStation (some u) }

def vanClaim (w : Work) (q : Request) : Reply × Work :=
  crewed w q (fun v =>
    let i := param q 8 1
    match claimRefusal w.store v i with
    | some r => (r, w)
    | none =>
      let renewed := claimsStation w.store v i
      let due := claimDue w
      let (w, old) := w.moveClaim v i
      ({ outcome := .ok
         result := encStation (some i) ++ encClock due ++ encFlag renewed ++ encStation old }, w))

/-- VAN_CLAIM, code 11. -/
def execVanClaim (q : Request) (s : State) : Host.Outcome State Fault Refusal :=
  .next (grantRequest 11#8 (workRule vanClaim) q s)

def vanReleaseClaim (w : Work) (q : Request) : Reply × Work :=
  crewed w q (fun v =>
    if (vanAt w.store v).load.isSome then refuse w .busy
    else if (vanAt w.store v).claim.isNone then refuse w .wrongState
    else
      let (w, old) := w.clearClaim v
      ({ outcome := .ok, result := encStation old }, w))

/-- VAN_RELEASE_CLAIM, code 12. -/
def execVanReleaseClaim (q : Request) (s : State) : Host.Outcome State Fault Refusal :=
  .next (grantRequest 12#8 (workRule vanReleaseClaim) q s)

/-- R122: the claim of van `v` lapses. -/
def Work.lapseClaim (w : Work) (v : Nat) (c : Claim) : Work :=
  (w.clearClaim v).1.raiseNotice (.claimLapsed v c.station c.expiry)

/-- CLAIM_EXPIRY expiry. -/
def execClaimExpiry (hub : HubInput) (s : State) : Host.Outcome State Fault Refusal :=
  match grantedHead s with
  | some (.claimExpiry v) =>
    match (vanAt s.store v).claim with
    | some c => .next (grantExpiry hub (fun w => w.lapseClaim v c) s)
    | none => .fault .ownerNotInState
  | _ => .next s

/-! ## Loading -/

/-- R123: the checks of a VAN_LOAD after those of R112 and the dock index; the bike it loads. -/
def loadBike (st : Store) (v d : Nat) : Except OutcomeCode Nat :=
  let r := dockAt st d
  if st.timer.clock.isNone then .error .noTime
  else if r.service ≠ .inService ∧ r.service ≠ .outOfService then .error .dockUnavailable
  else if claimsDock st v d = false then .error .notClaimed
  else if (vanAt st v).load.isSome then .error .busy
  else if freePlaces (vanAt st v) = 0 then .error .manifestFull
  else
    match r.content with
    | .bike b =>
      if (bikeAt st b).state ≠ .docked then .error .bikeUnavailable
      else if (bikeAt st b).heldFor.isSome then .error .bikeHeld
      else .ok b
    | .empty => .error .bikeUnavailable
    | .unidentified => .error .bikeUnavailable

/-- R124: the load of bike `b` from dock `d` by van `v` begins. -/
def Work.beginLoad (w : Work) (v d b : Nat) : Work :=
  let due := dueAt w.now w.set.releaseWindow
  let w := w.setBike b { bikeAt w.store b with state := .loading }
  let w := w.setDock d { dockAt w.store d with latch := .openForVan v }
  let w := w.setVan v { vanAt w.store v with load := some d }
  w.addEntry (.loadWindow v) due

def vanLoad (w : Work) (q : Request) : Reply × Work :=
  crewed w q (fun v =>
    let d := param q 8 2
    if Config.docks ≤ d then refuse w .badRequest
    else
      match loadBike w.store v d with
      | .error o => refuse w o
      | .ok b =>
        ({ outcome := .ok
           result := encDock (some d) ++ encBike (some b) ++ encHandle (bikeAt w.store b).fault.ticket ++
             encClock (dueAt w.now w.set.releaseWindow) }, w.beginLoad v d b))

/-- VAN_LOAD, code 13. -/
def execVanLoad (q : Request) (s : State) : Host.Outcome State Fault Refusal :=
  .next (grantRequest 13#8 (workRule vanLoad) q s)

/-- R148: the dock and the bike of the load in progress of a van. -/
def dueLoad (st : Store) (v : Nat) : Option (Nat × Nat) :=
  match (vanAt st v).load with
  | none => none
  | some d =>
    match (dockAt st d).content with
    | .bike b => some (d, b)
    | _ => none

/-- R126: the load of van `v` lapses. -/
def Work.lapseLoad (w : Work) (v d b : Nat) : Work := (w.endLoad v d b).raiseNotice (.loadLapsed v d b)

/-- LOAD_WINDOW expiry. -/
def execLoadWindowExpiry (hub : HubInput) (s : State) : Host.Outcome State Fault Refusal :=
  match grantedHead s with
  | some (.loadWindow v) =>
    match dueLoad s.store v with
    | some (d, b) => .next (grantExpiry hub (fun w => w.lapseLoad v d b) s)
    | none => .fault .ownerNotInState
  | _ => .next s

/-! ## WORKSHOP_PICKUP -/

/-- R130: the first failing check of a pickup. -/
def pickupRefusal (st : Store) (v b : Nat) : Option OutcomeCode :=
  if (bikeAt st b).state ≠ .workshop then some .wrongState
  else if blocked (bikeAt st b).fault then some .bikeUnavailable
  else if freePlaces (vanAt st v) = 0 then some .manifestFull
  else none

def workshopPickup (w : Work) (q : Request) : Reply × Work :=
  crewed w q (fun v =>
    let b := param q 8 2
    if Config.bikes ≤ b then refuse w .badRequest
    else
      match pickupRefusal w.store v b with
      | some o => refuse w o
      | none =>
        let l := (vanAt w.store v).manifest ++ [b]
        let w := w.setVan v { vanAt w.store v with manifest := l }
        ({ outcome := .ok, result := manifestRecord l },
          w.setBike b { bikeAt w.store b with state := .inVan, place := some (.van v) }))

/-- WORKSHOP_PICKUP, code 15. -/
def execWorkshopPickup (q : Request) (s : State) : Host.Outcome State Fault Refusal :=
  .next (grantRequest 15#8 (workRule workshopPickup) q s)

/-! ## VAN_QUERY -/

/-- R131: a bike of a manifest. -/
def carriedRecord (st : Store) (b : Nat) : List Byte :=
  let f := (bikeAt st b).fault
  encBike (some b) ++ encHandle f.ticket ++ encTicketState (f.ticket.bind (ticketAt st)) ++
    encCause f.pending ++ encFlag f.condemned

/-- R131: the load in progress as dock, bike and due time, or absent. -/
def loadRecord (st : Store) (v : Nat) : List Byte :=
  encDock (vanAt st v).load ++ encBike ((dueLoad st v).map Prod.snd) ++
    encOptClock ((vanAt st v).load.bind (fun _ => dueOf st (.loadWindow v)))

/-- R131: a van's record. -/
def vanRecord (st : Store) (v : Nat) : List Byte :=
  let r := vanAt st v
  encStation (some v) ++ le 1 r.capacity ++ le 1 (freePlaces r) ++ encFlag r.crew.isSome ++
    encSerial r.crew ++ encStation (r.claim.map Claim.station) ++ encOptClock (r.claim.map Claim.expiry) ++
    loadRecord st v ++ le 1 r.manifest.length ++ r.manifest.flatMap (carriedRecord st)

def vanQuery (w : Work) (q : Request) : Reply × Work :=
  crewed w q (fun v => ({ outcome := .ok, result := vanRecord w.store v }, w))

/-- VAN_QUERY, code 18. -/
def execVanQuery (q : Request) (s : State) : Host.Outcome State Fault Refusal :=
  .next (grantRequest 18#8 (workRule vanQuery) q s)

end Sys2Proof.Machine
end

