-- ==== Sys2Proof/Machine/Dispatch.lean ====
section
/-! DEFINITION. One arm per command: its meaning. -/

namespace Sys2Proof.Machine

def exec (i : Instr) (s : State) : Host.Outcome State Fault Refusal :=
  match i with
  | .bikeArrived q => Sys2Proof.Machine.execBikeArrived q s
  | .bikeRemoved q => Sys2Proof.Machine.execBikeRemoved q s
  | .dockStatus q => Sys2Proof.Machine.execDockStatus q s
  | .cardCheck q => Sys2Proof.Machine.execCardCheck q s
  | .hireRelease q => Sys2Proof.Machine.execHireRelease q s
  | .hireQuery q => Sys2Proof.Machine.execHireQuery q s
  | .cancelReservation q => Sys2Proof.Machine.execCancelReservation q s
  | .vanShiftStart q => Sys2Proof.Machine.execVanShiftStart q s
  | .vanShiftEnd q => Sys2Proof.Machine.execVanShiftEnd q s
  | .vanSuggest q => Sys2Proof.Machine.execVanSuggest q s
  | .vanClaim q => Sys2Proof.Machine.execVanClaim q s
  | .vanReleaseClaim q => Sys2Proof.Machine.execVanReleaseClaim q s
  | .vanLoad q => Sys2Proof.Machine.execVanLoad q s
  | .workshopDrop q => Sys2Proof.Machine.execWorkshopDrop q s
  | .workshopPickup q => Sys2Proof.Machine.execWorkshopPickup q s
  | .fieldClear q => Sys2Proof.Machine.execFieldClear q s
  | .crewFlag q => Sys2Proof.Machine.execCrewFlag q s
  | .vanQuery q => Sys2Proof.Machine.execVanQuery q s
  | .timeSet q => Sys2Proof.Machine.execTimeSet q s
  | .tariffLoad q => Sys2Proof.Machine.execTariffLoad q s
  | .stationDefine q => Sys2Proof.Machine.execStationDefine q s
  | .vanDefine q => Sys2Proof.Machine.execVanDefine q s
  | .bikeCommission q => Sys2Proof.Machine.execBikeCommission q s
  | .bikeDecommission q => Sys2Proof.Machine.execBikeDecommission q s
  | .dockCommission q => Sys2Proof.Machine.execDockCommission q s
  | .cardPut q => Sys2Proof.Machine.execCardPut q s
  | .cardCredit q => Sys2Proof.Machine.execCardCredit q s
  | .cardStatus q => Sys2Proof.Machine.execCardStatus q s
  | .cardRetire q => Sys2Proof.Machine.execCardRetire q s
  | .cardQuery q => Sys2Proof.Machine.execCardQuery q s
  | .bulkCardLoad q => Sys2Proof.Machine.execBulkCardLoad q s
  | .reserve q => Sys2Proof.Machine.execReserve q s
  | .ticketClose q => Sys2Proof.Machine.execTicketClose q s
  | .dockRestore q => Sys2Proof.Machine.execDockRestore q s
  | .ticketQuery q => Sys2Proof.Machine.execTicketQuery q s
  | .bikeQuery q => Sys2Proof.Machine.execBikeQuery q s
  | .stationQuery q => Sys2Proof.Machine.execStationQuery q s
  | .grantWithoutWork code q => Sys2Proof.Machine.execGrantWithoutWork code q s
  | .releaseWindowExpiry hub => Sys2Proof.Machine.execReleaseWindowExpiry hub s
  | .overdueExpiry hub => Sys2Proof.Machine.execOverdueExpiry hub s
  | .lostExpiry hub => Sys2Proof.Machine.execLostExpiry hub s
  | .holdExpiry hub => Sys2Proof.Machine.execHoldExpiry hub s
  | .loadWindowExpiry hub => Sys2Proof.Machine.execLoadWindowExpiry hub s
  | .claimExpiry hub => Sys2Proof.Machine.execClaimExpiry hub s
  | .trendEpoch hub => Sys2Proof.Machine.execTrendEpoch hub s
  | .bulkCardImage hub => Sys2Proof.Machine.execBulkCardImage hub s
  | .tick => Sys2Proof.Machine.execTick s
  | .resetPin => Sys2Proof.Machine.execResetPin s
  | .initFormat => Sys2Proof.Machine.execInitFormat s
  | .initKeep => Sys2Proof.Machine.execInitKeep s
  | .initCompletion hub => Sys2Proof.Machine.execInitCompletion hub s
  | .engineStop => Sys2Proof.Machine.execEngineStop s
  | .stopCompletion hub => Sys2Proof.Machine.execStopCompletion hub s
  | .ringStart ring hub => Sys2Proof.Machine.execRingStart ring hub s
  | .kick ring hub => Sys2Proof.Machine.execKick ring hub s
  | .resume ring hub => Sys2Proof.Machine.execResume ring hub s
  | .ringStop ring => Sys2Proof.Machine.execRingStop ring s
  | .indexPortWrite value => Sys2Proof.Machine.execIndexPortWrite value s
  | .clockLowRead => Sys2Proof.Machine.execClockLowRead s
  | .eventClear value => Sys2Proof.Machine.execEventClear value s
  | .eventEnableWrite value => Sys2Proof.Machine.execEventEnableWrite value s
  | .controlWordWrite value hub => Sys2Proof.Machine.execControlWordWrite value hub s
  | .unknownRequestCode code q => Sys2Proof.Machine.execUnknownRequestCode code q s

end Sys2Proof.Machine
end

