-- ==== Sys2Proof/Safety.lean ====
section
/-! DEFINITION. The terms that claims use: when a request is taken, what its answer leaves outside the
record store, what an expiry leaves there, and the invariants of the part. -/

namespace Sys2Proof.Machine

/-! ## Premises -/

/-- Every access to the hub bus in a command succeeds. -/
def CleanBus (h : HubInput) : Prop := ∀ a ∈ h.answers, a = BusAnswer.ok

/-- The reset pin is asserted at none of these accesses. -/
def NoReset (l : List BusAnswer) : Prop := ∀ d, BusAnswer.reset d ∉ l

/-- The arbiter's next grant goes to the ring of `q`, whose head descriptor is `q` with code `code`, still
handed to the part; the bus is clean, and the descriptor passes the four checks of R161. -/
def Takes (code : Byte) (q : Request) (s : State) : Prop :=
  granted q s = true ∧ owned q = true ∧ CleanBus q.hub ∧ descriptorCheck s code q = none

/-- The arbiter's next grant goes to the Timer Unit, whose due head stands for `d`; the bus is clean. -/
def Expires (d : Deadline) (hub : HubInput) (s : State) : Prop :=
  grantedHead s = some d ∧ CleanBus hub

/-- The work that a grant begins with: the settings and the records, no notice raised, no station
concerned. -/
def begun (s : State) : Work := ⟨s.settings, s.store, [], []⟩

/-- The request that a command of the table of request codes (9.8) takes, with its code. -/
def requestOf : Instr → Option (Byte × Request)
  | .bikeArrived q => some (1#8, q)
  | .bikeRemoved q => some (2#8, q)
  | .dockStatus q => some (3#8, q)
  | .cardCheck q => some (4#8, q)
  | .hireRelease q => some (5#8, q)
  | .hireQuery q => some (6#8, q)
  | .cancelReservation q => some (7#8, q)
  | .vanShiftStart q => some (8#8, q)
  | .vanShiftEnd q => some (9#8, q)
  | .vanSuggest q => some (10#8, q)
  | .vanClaim q => some (11#8, q)
  | .vanReleaseClaim q => some (12#8, q)
  | .vanLoad q => some (13#8, q)
  | .workshopDrop q => some (14#8, q)
  | .workshopPickup q => some (15#8, q)
  | .fieldClear q => some (16#8, q)
  | .crewFlag q => some (17#8, q)
  | .vanQuery q => some (18#8, q)
  | .timeSet q => some (19#8, q)
  | .tariffLoad q => some (20#8, q)
  | .stationDefine q => some (21#8, q)
  | .vanDefine q => some (22#8, q)
  | .bikeCommission q => some (23#8, q)
  | .bikeDecommission q => some (24#8, q)
  | .dockCommission q => some (25#8, q)
  | .cardPut q => some (26#8, q)
  | .cardCredit q => some (27#8, q)
  | .cardStatus q => some (28#8, q)
  | .cardRetire q => some (29#8, q)
  | .cardQuery q => some (30#8, q)
  | .bulkCardLoad q => some (31#8, q)
  | .reserve q => some (32#8, q)
  | .ticketClose q => some (33#8, q)
  | .dockRestore q => some (34#8, q)
  | .ticketQuery q => some (35#8, q)
  | .bikeQuery q => some (36#8, q)
  | .stationQuery q => some (37#8, q)
  | .grantWithoutWork _ _ => none
  | .releaseWindowExpiry _ => none
  | .overdueExpiry _ => none
  | .lostExpiry _ => none
  | .holdExpiry _ => none
  | .loadWindowExpiry _ => none
  | .claimExpiry _ => none
  | .trendEpoch _ => none
  | .bulkCardImage _ => none
  | .tick => none
  | .resetPin => none
  | .initFormat => none
  | .initKeep => none
  | .initCompletion _ => none
  | .engineStop => none
  | .stopCompletion _ => none
  | .ringStart _ _ => none
  | .kick _ _ => none
  | .resume _ _ => none
  | .ringStop _ => none
  | .indexPortWrite _ => none
  | .clockLowRead => none
  | .eventClear _ => none
  | .eventEnableWrite _ => none
  | .controlWordWrite _ _ => none
  | .unknownRequestCode _ _ => none

/-! ## Hub memory through the answer to a request -/

/-- R183: whether the part owns the descriptor at an address. -/
def ownAt (mem : Table Byte) (a : Nat) : Bool := memRead mem a 1 % 2 == 1

/-- The address of the descriptor at the head of ring `n`, and of the response slot to be written. -/
def headAddress (s : State) (n : Nat) : Nat := slotAddress (ringAt s n).request (ringAt s n).head
def responseAddress (s : State) (n : Nat) : Nat := slotAddress (ringAt s n).response (ringAt s n).responseIndex

/-- Hub memory once request `q` has been taken: the hub processor's stores, its descriptor, and the
descriptor written back (R160 step 3). -/
def takenMem (code : Byte) (q : Request) (s : State) : Table Byte :=
  memWrite
    (memWrite (hubStores s.hub.mem q.hub.writes) (headAddress s q.ring.val) (descriptorBytes code q))
    (headAddress s q.ring.val) (writtenBackBytes code q)

/-- Hub memory once a result block, where there is one, has been written (R183). -/
def blockMem (q : Request) (r : Reply) (mem : Table Byte) : Table Byte :=
  if wantsBlock q r then memWrite mem q.block.toNat r.result else mem

/-- Hub memory once the response `r` has been written (R163, R183). -/
def answeredMem (code : Byte) (q : Request) (s : State) (r : Reply) : Table Byte :=
  memWrite (blockMem q r (takenMem code q s)) (responseAddress s q.ring.val)
    (responseBytes code q.tag r (isTruncated q r) (wantsBlock q r))

/-- What the writing of notices changes (R166): hub memory, the notice index and the event flags. -/
structure Board where
  mem : Table Byte
  index : Nat
  events : BitVec 10
deriving DecidableEq, Repr

/-- R166: a notice posted to the notice ring on a clean bus, or dropped where the part does not own the
descriptor. -/
def post (place : RingPlace) (clock : Option Nat) (b : Board) (n : Notice) : Board :=
  if ownAt b.mem (slotAddress place b.index) then
    ⟨memWrite b.mem (slotAddress place b.index) (noticeBytes clock n), advance place b.index,
      b.events ||| noticeWritten⟩
  else { b with events := b.events ||| noticeLost }

/-- The board of a state. -/
def boardOf (s : State) : Board := ⟨s.hub.mem, s.rings.noticeIndex, s.port.events⟩

/-- R156: the state that a look finds a ring in, on a clean bus. -/
def seenState (s : State) (n : Nat) : RingState :=
  if ownAt s.hub.mem (headAddress s n) then
    if slotReserved s n then .blocked
    else if ownAt s.hub.mem (responseAddress s n) then .ready else .blocked
  else .idle

/-! ## What a grant leaves outside the record store -/

/-- The parts of a state that no grant to a ring or to the Timer Unit changes. -/
structure Kept (s t : State) : Prop where
  settings : t.settings = s.settings
  index : t.port.index = s.port.index
  setupAddress : t.port.setupAddress = s.port.setupAddress
  enables : t.port.enables = s.port.enables
  dataOut : t.port.dataOut = s.port.dataOut
  notice : t.rings.notice = s.rings.notice
  inHand : t.rings.inHand = none
  answers : t.hub.answers = []
  pending : t.pending = s.pending

/-- R168: the pass-over counts after a grant to `g`: those of a requester that requests afterwards stand as
the grant left them, and the others are 0. -/
def Counted (g : Requester) (s t : State) : Prop :=
  ∀ r ∈ requesters, passOverOf t r = if requesting t r then countAfterGrant s g r else 0

/-- The ring of request `q` once its request has been taken and its response slot passed (R160, R163): the
look, or OFF where a STOP was pending or was written meanwhile (R159, R178). -/
structure RingMoved (q : Request) (s t : State) : Prop where
  head : (ringAt t q.ring.val).head = advance (ringAt s q.ring.val).request (ringAt s q.ring.val).head
  responseIndex : (ringAt t q.ring.val).responseIndex =
    advance (ringAt s q.ring.val).response (ringAt s q.ring.val).responseIndex
  request : (ringAt t q.ring.val).request = (ringAt s q.ring.val).request
  response : (ringAt t q.ring.val).response = (ringAt s q.ring.val).response
  stopPending : (ringAt t q.ring.val).stopPending = false
  state : (ringAt t q.ring.val).state =
    if (ringAt s q.ring.val).stopPending || q.stopRing || q.stopEngine then .off
    else seenState t q.ring.val
  others : ∀ k, k ≠ q.ring.val → ringAt t k = ringAt s k

/-- What a request with code `code` leaves outside the record store when it is answered with `r` and its
work raised the notices `l`, on a clean bus. -/
structure Answered (code : Byte) (q : Request) (s t : State) (r : Reply) (l : List Notice) : Prop where
  board : boardOf t = l.foldl (post s.rings.notice t.store.timer.clock)
    ⟨answeredMem code q s r, s.rings.noticeIndex, s.port.events ||| responseWritten q.ring.val⟩
  ring : RingMoved q s t
  engine : t.engine = { s.engine with stopPending := q.stopEngine }
  bulk : t.bulk = s.bulk
  reserved : t.rings.reserved = s.rings.reserved
  kept : Kept s t
  counts : Counted (.ring q.ring.val) s t

/-- What an expiry leaves outside the record store when its work raised the notices `l`, on a clean
bus. -/
structure Elapsed (hub : HubInput) (s t : State) (l : List Notice) : Prop where
  board : boardOf t = l.foldl (post s.rings.notice t.store.timer.clock)
    ⟨hubStores s.hub.mem hub.writes, s.rings.noticeIndex, s.port.events⟩
  rings : ∀ k, ringAt t k = ringAt s k
  engine : t.engine = s.engine
  bulk : t.bulk = s.bulk
  reserved : t.rings.reserved = s.rings.reserved
  kept : Kept s t
  counts : Counted .timer s t

/-! ## What a command leaves in the record store -/

/-- R138: a station once its indicator word has been compared: the word becomes the last one. -/
def reworded (r : Station) : Station := { r with lastWord := indicatorWord r }

/-- R138, R139: the INDICATOR notice of a comparison, where the word changes. -/
def wordNotice (clock : Option Nat) (i : Nat) (r : Station) : Option Notice :=
  if indicatorWord r = r.lastWord then none
  else some (.indicator i (indicatorWord r) r.lastWord r.census.u r.census.o r.dockCount r.netFlow
    r.direction clock)

/-- R13: a station with its census at the values derived from the bikes and docks of `st`. -/
def recounted (st : Store) (r : Station) : Station :=
  { r with census := deriveCensus st r.firstDock r.dockCount }

/-- R13, R138: a station once its census and its last indicator word are brought up to date by the bikes and
docks of `st`. -/
def refreshed (st : Store) (r : Station) : Station := reworded (recounted st r)

/-- R13, R138: the station records at the end of a work. `base` is each record with what the work's own
rule changed of it; the defined stations among `concerned` are brought up to date. -/
def Settles (t : Store) (base : Nat → Station) (concerned : List Nat) : Prop :=
  ∀ i, stationAt t i =
    if i < Config.stations ∧ (base i).isDefined = true ∧ i ∈ concerned then refreshed t (base i) else base i

/-- R138, R139: the INDICATOR notices at the end of a work, for the stations brought up to date whose word
changes, lower index first. -/
def changedIndicators (t : Store) (base : Nat → Station) (concerned : List Nat) : List Notice :=
  (List.range Config.stations).filterMap (fun i =>
    if (base i).isDefined = true ∧ i ∈ concerned then wordNotice t.timer.clock i (recounted t (base i))
    else none)

/-- The frame of a command over the numbered records and the tariff: the records that stand as they were are
those not listed. -/
structure Frame (s t : Store) (bikes docks cards hires tickets vans : List Nat) : Prop where
  bikes : ∀ k, k ∉ bikes → bikeAt t k = bikeAt s k
  docks : ∀ k, k ∉ docks → dockAt t k = dockAt s k
  cards : ∀ k, k ∉ cards → cardAt t k = cardAt s k
  hires : ∀ k, k ∉ hires → hireSlotAt t k = hireSlotAt s k
  tickets : ∀ k, k ∉ tickets → ticketSlotAt t k = ticketSlotAt s k
  vans : ∀ k, k ∉ vans → vanAt t k = vanAt s k
  tariff : t.tariff = s.tariff
  captured : t.timer.captured = s.timer.captured

/-- The index of the Card Store stands as it was. -/
def SameIndex (s t : Store) : Prop := t.cards.chains = s.cards.chains ∧ t.cards.free = s.cards.free

/-- The clock and the deadline list stand as they were. -/
def SameTimer (s t : Store) : Prop := t.timer.clock = s.timer.clock ∧ t.timer.deadlines = s.timer.deadlines

/-- The fault waiting list stands as it was. -/
def SameWaiting (s t : Store) : Prop := t.faults.waiting = s.faults.waiting

/-- The count of reservations held stands as it was. -/
def SameHeld (s t : Store) : Prop := t.fleet.reservationsHeld = s.fleet.reservationsHeld

/-- Every station record stands as it was. -/
def SameStations (s t : Store) : Prop := ∀ i, stationAt t i = stationAt s i

/-- The stations whose census a change of bike `b`, or of dock `d`, concerns. -/
def stationsOfBike (st : Store) (b : Nat) : List Nat := placeStation st (bikeAt st b).place
def stationsOfDock (st : Store) (d : Nat) : List Nat := (dockAt st d).station.toList

/-- Command `c`, a request with code `code`, answers a next state `t` with `P t`: its reply is `r`, its work
raised the notices `l`, and no station is concerned. -/
def Completes (c : Instr) (code : Byte) (q : Request) (s : State) (r : Reply) (l : List Notice)
    (P : Store → Prop) : Prop :=
  ∃ t, exec c s = .next t ∧ Answered code q s t r l ∧ P t.store

/-- Command `c`, a request with code `code`, answers a next state `t` with `P t`: its reply is `r`; its work
raised the notices `first` and then the INDICATOR notices of the stations `concerned`, whose records are
brought up to date from `base`. -/
def CompletesAt (c : Instr) (code : Byte) (q : Request) (s : State) (r : Reply) (first : List Notice)
    (base : Nat → Station) (concerned : List Nat) (P : Store → Prop) : Prop :=
  ∃ t, exec c s = .next t ∧ Answered code q s t r (first ++ changedIndicators t.store base concerned) ∧
    Settles t.store base concerned ∧ P t.store

/-- As `Completes`, for a command that is an expiry. -/
def Lapses (c : Instr) (hub : HubInput) (s : State) (l : List Notice) (P : Store → Prop) : Prop :=
  ∃ t, exec c s = .next t ∧ Elapsed hub s t l ∧ P t.store

/-- As `CompletesAt`, for a command that is an expiry. -/
def LapsesAt (c : Instr) (hub : HubInput) (s : State) (first : List Notice) (base : Nat → Station)
    (concerned : List Nat) (P : Store → Prop) : Prop :=
  ∃ t, exec c s = .next t ∧ Elapsed hub s t (first ++ changedIndicators t.store base concerned) ∧
    Settles t.store base concerned ∧ P t.store

/-! ## Premises and records that several claims name -/

/-- R36: card `c`, in `slot`, is the one that a serial names. -/
def Names (st : Store) (serial slot : Nat) (c : Card) : Prop :=
  serial ≠ Config.serialAbsent ∧ namedCard st serial = some (slot, c)

/-- R112: a van request of van `v` passes the checks of every van request. -/
def Crewed (st : Store) (q : Request) (v : Nat) : Prop :=
  param q 0 1 = v ∧ v < Config.vans ∧ (vanAt st v).isDefined = true ∧
    param q 1 7 ≠ Config.serialAbsent ∧ (vanAt st v).crew = some (param q 1 7)

/-- R35: a serial of a foreign issuer that is accepted. -/
def ForeignAccepted (set : Settings) (serial : Nat) : Prop :=
  issuerOf serial ≠ set.homeIssuer ∧ issuerAccepted set (issuerOf serial) = true

/-- R97: the records once the ticket of bike `b`, where it has one, is in state `state`. -/
def ticketIn (st : Store) (b : Nat) (state : TicketState) : Store :=
  match (bikeAt st b).fault.ticket.bind (fun id => (ticketAt st id).map (fun t => (id, t))) with
  | none => st
  | some (id, t) =>
    putTicketSlot st id.slot { ticketSlotAt st id.slot with ticket := some { t with state := state } }

/-- R132, R133: the station records, that of dock `d` with its net flow changed. -/
def bumped (st : Store) (d : Nat) (change : Int) (i : Nat) : Station :=
  if (dockAt st d).station = some i then
    { stationAt st i with
      netFlow := max (-127) (min 127 ((stationAt st i).netFlow + change))
      direction := directionOf (max (-127) (min 127 ((stationAt st i).netFlow + change))) }
  else stationAt st i

/-- R38: whether a card is closed at its last hire. -/
abbrev ClosesAtLast (c : Card) : Prop := c.openHires = [] ∧ (c.status = .retiring ∨ c.guest = true)

/-- R34: the card in `slot` is removed: it leaves its chain, its slot goes onto the stack, and the other
cards and chains stand. -/
def Removed (s t : Store) (slot : Nat) (c : Card) : Prop :=
  (∀ k, cardAt t k = if k = slot then none else cardAt s k) ∧
    (∀ b, chainAt t b = if b = bucketOf c.serial then (chainAt s b).filter (· ≠ slot) else chainAt s b) ∧
    t.cards.free = slot :: s.cards.free

/-- R38: the card of a closed hire is `c` afterwards, or has been closed at its last hire. -/
def LeftWith (s t : Store) (slot : Nat) (c : Card) : Prop :=
  if ClosesAtLast c then Removed s t slot c else cardAt t slot = some c ∧ SameIndex s t

/-- R38: the notice of a card closed at its last hire. -/
def closingNotice (c : Card) : List Notice :=
  if ClosesAtLast c then [.cardRetired c.serial (decide (c.status ≠ .retiring)) c.balance c.carry] else []

/-- R134: a station's net flow halved toward zero, its direction set. -/
def decayed (r : Station) : Station :=
  { r with netFlow := r.netFlow.tdiv 2, direction := directionOf (r.netFlow.tdiv 2) }

/-- R142: a due time, held at the greatest clock value. -/
def heldAt (t : Nat) : Nat := min t 4294967295

/-- R31: the status of a card after a charge. -/
def statusAfterCharge (t : Tariff) (c : Card) (balance : Int) : CardStatus :=
  if c.status = .active ∧ balance < (classParams t c.cls).floor then .suspended else c.status

/-- R87: the balance after a charge, and the part of the charge that was not taken. -/
def chargedBalance (balance amount : Int) : Int := max (-1000000) (balance - amount)
def writtenOff (balance amount : Int) : Int := max 0 (-1000000 - (balance - amount))

/-- R51: a card in standing for a release or a reservation taken now. -/
structure Standing (set : Settings) (st : Store) (now : Nat) (c : Card) : Prop where
  status : c.status = .active
  membership : ∀ d, c.expiryDay = some d → dayNumber set now ≤ d
  hires : c.openHires.length < c.hireLimit
  funds : (classParams st.tariff.active c.cls).releaseMin ≤ availableFunds c

/-- R36, R37: the card of a release, present or created as a guest, and the records with it. -/
def ReleaseCard (s : State) (serial slot : Nat) (c : Card) (st : Store) : Prop :=
  serial ≠ Config.serialAbsent ∧
    ((namedCard s.store serial = some (slot, c) ∧ st = s.store) ∨
      (namedCard s.store serial = none ∧ ForeignAccepted s.settings serial ∧
        c = ⟨serial, .guest, .active, true, 0, 0, 0, [], 1, none, 0, 0, none, 0, 0⟩ ∧
        ∃ rest, s.store.cards.free = slot :: rest ∧
          st = putChain (putCard { s.store with cards.free := rest } slot (some c)) (bucketOf serial)
            (chainAt s.store (bucketOf serial) ++ [slot])))

/-- R99: the fault state of a subject whose ticket has been closed. -/
def closedFault (f : FaultState) (overhaul : Bool) : FaultState :=
  { f with ticket := none, strikes := if overhaul then 0 else f.strikes }

/-- R99: the subject of a closed ticket, where it is not condemned; no other bike or dock changes. -/
def SubjectClosed (s t : Store) (overhaul : Bool) : Subject → Prop
  | .bike b =>
    (∀ k, bikeAt t k =
      if k = b then
        { bikeAt s b with
          fault := closedFault (bikeAt s b).fault overhaul
          rides := if overhaul then 0 else (bikeAt s b).rides }
      else bikeAt s k) ∧ t.fleet.docks = s.fleet.docks
  | .dock d =>
    (∀ k, dockAt t k =
      if k = d then
        { dockAt s d with
          fault := closedFault (dockAt s d).fault overhaul
          service := if (dockAt s d).fault.pending.isSome then .outOfService else .inService }
      else dockAt s k) ∧ t.fleet.bikes = s.fleet.bikes

/-- A dock that is in a station's range and not RETIRED; every bike is such a subject. -/
def Serviceable (st : Store) : Subject → Prop
  | .bike _ => True
  | .dock d => (dockAt st d).station.isSome = true ∧ (dockAt st d).service ≠ .retired

/-- The stations whose census a change of a subject concerns. -/
def stationsOf (st : Store) : Subject → List Nat
  | .bike b => stationsOfBike st b
  | .dock d => stationsOfDock st d

/-- R117: a claim of van `v` on station `i` set now in its three places, that on `old` cleared; nothing else
changes. -/
def ClaimSet (s t : Store) (v i due : Nat) (old : Option Nat) : Prop :=
  (∀ k, vanAt t k = if k = v then { vanAt s v with claim := some ⟨i, due⟩ } else vanAt s k) ∧
    (∀ k, stationAt t k =
      if k = i then { stationAt s i with claimedBy := some v }
      else if old = some k then { stationAt s k with claimedBy := none } else stationAt s k) ∧
    t = { s with
      vans := t.vans, fleet.stations := t.fleet.stations
      timer.deadlines := insertEntry ⟨.claimExpiry v, due⟩
        (if old.isSome then dropEntry (.claimExpiry v) s.timer.deadlines else s.timer.deadlines) }

/-- R117: the records once the claim `c` of van `v` is cleared in its three places, the entries having been
`l`. -/
def claimCleared (st : Store) (v : Nat) (c : Claim) (l : List Entry) : Store :=
  { putStation (putVan st v { vanAt st v with claim := none }) c.station
      { stationAt st c.station with claimedBy := none } with
    timer.deadlines := dropEntry (.claimExpiry v) l }

/-- What a command that acts on ring `n` alone leaves of everything else, hub memory being `mem`. -/
structure BesideRing (mem : Table Byte) (n : Nat) (s t : State) : Prop where
  others : ∀ k, k ≠ n → ringAt t k = ringAt s k
  mem : t.hub.mem = mem
  store : t.store = s.store
  engine : t.engine = s.engine
  port : t.port = s.port
  settings : t.settings = s.settings
  bulk : t.bulk = s.bulk
  reserved : t.rings.reserved = s.rings.reserved
  notice : t.rings.notice = s.rings.notice
  noticeIndex : t.rings.noticeIndex = s.rings.noticeIndex
  inHand : s.rings.inHand = none → t.rings.inHand = none
  answers : s.hub.answers = [] → t.hub.answers = []
  pending : t.pending = s.pending
  counts : ∀ r ∈ requesters, passOverOf t r = if requesting t r then passOverOf s r else 0

/-- What a command that acts on the engine or the control port leaves of everything else but the records,
hub memory being `mem`. -/
structure BesidePort (mem : Table Byte) (s t : State) : Prop where
  mem : t.hub.mem = mem
  dataOut : t.port.dataOut = s.port.dataOut
  bulk : t.bulk = s.bulk
  rings : ∀ k, ringAt t k = ringAt s k
  reserved : t.rings.reserved = s.rings.reserved
  inHand : t.rings.inHand = none
  answers : t.hub.answers = []
  pending : t.pending = s.pending
  counts : ∀ r ∈ requesters, passOverOf t r = if requesting t r then passOverOf s r else 0

/-- R178: a STOP of the engine passes at once to its end: it is taken with no work in hand and no load in
flight. -/
def HaltsAtOnce (s : State) : Prop :=
  s.engine.state = .running ∧ s.engine.stopPending = false ∧ s.rings.inHand = none ∧ s.bulk = none

/-- R173, R174: the engine once an INIT_FORMAT, an INIT_KEEP, or a STOP that waits (R178), has been written. -/
def formatTaken (e : Engine) : Engine :=
  if e.state = .stopped then { e with state := .initializing .format } else e
def keepTaken (e : Engine) : Engine :=
  if e.state = .stopped then
    if e.formatted then { e with state := .initializing .keep } else { e with lastInit := .unformatted }
  else e
def stopTaken (e : Engine) : Engine :=
  if e.state = .running ∧ e.stopPending = false then { e with stopPending := true } else e

/-- R174 step 1: the event flags once an INIT_KEEP has been written. -/
def keepEvents (s : State) : BitVec 10 :=
  if s.engine.state = .stopped ∧ s.engine.formatted = false then s.port.events ||| initFailed
  else s.port.events

/-- R174: the event flags once a value has been written to ENGINE. -/
def engineEvents (s : State) (value : Nat) : BitVec 10 := if value = 2 then keepEvents s else s.port.events

/-- R173: the engine once a value has been written to ENGINE. -/
def engineTaken (e : Engine) (value : Nat) : Engine :=
  if value = 1 then formatTaken e else if value = 2 then keepTaken e else if value = 3 then stopTaken e else e

/-- R177: the records as a format leaves them. -/
structure Formatted (st t : Store) : Prop where
  bikes : ∀ b, bikeAt t b = formattedBike
  docks : ∀ d, dockAt t d = formattedDock
  stations : ∀ i, stationAt t i = formattedStation
  cards : ∀ k, cardAt t k = none
  chains : ∀ b, chainAt t b = []
  free : t.cards.free = List.range' 0 Config.cardSlots
  hires : ∀ k, hireSlotAt t k = ⟨0, none⟩
  tickets : ∀ k, ticketSlotAt t k = ⟨0, none⟩
  waiting : t.faults.waiting = []
  held : t.fleet.reservationsHeld = 0
  vans : ∀ v, vanAt t v = formattedVan
  tariff : t.tariff.loaded = false
  deadlines : t.timer.deadlines = []
  clock : t.timer.clock = st.timer.clock
  captured : t.timer.captured = st.timer.captured

/-- R178 step 4: every request ring OFF, its indexes kept. -/
def RingsOff (s t : State) : Prop :=
  ∀ k, ringAt t k =
    if k < requestRings then { ringAt s k with state := .off, stopPending := false } else ringAt s k

/-- R178 steps 4 to 6: what a STOP that passes at once to its end leaves, hub memory being `mem`. -/
structure Halted (mem : Table Byte) (s t : State) : Prop where
  engine : t.engine = { s.engine with state := .stopped, stopPending := false }
  rings : RingsOff s t
  counts : ∀ r ∈ requesters, passOverOf t r = 0
  port : t.port = { s.port with events := s.port.events ||| stopDone }
  store : t.store = s.store
  settings : t.settings = s.settings
  bulk : t.bulk = none
  notice : t.rings.notice = s.rings.notice
  noticeIndex : t.rings.noticeIndex = s.rings.noticeIndex
  reserved : t.rings.reserved = s.rings.reserved
  inHand : t.rings.inHand = none
  mem : t.hub.mem = mem
  pending : t.pending = s.pending

/-- R179: the part once the reset pin has been asserted (and released unless `stays`), hub memory being `mem`;
but for the records. That the settings and the ring places stand is the model's choice (log entry 5). -/
structure PinReset (stays : Bool) (mem : Table Byte) (s t : State) : Prop where
  engine : t.engine = ⟨.stopped, false, false, .none, stays⟩
  clock : t.store.timer.clock = none
  captured : t.store.timer.captured = 0#16
  rings : ∀ n < requestRings, ringAt t n =
    { ringAt s n with state := .off, stopPending := false, head := 0, responseIndex := 0 }
  noticeIndex : t.rings.noticeIndex = 0
  reserved : t.rings.reserved = none
  inHand : t.rings.inHand = none
  bulk : t.bulk = none
  counts : ∀ r ∈ requesters, passOverOf t r = 0 ∧ requesting t r = false
  port : t.port = { s.port with index := 0#4, setupAddress := 0#32, events := 0#10, enables := 0#10 }
  interrupt : interruptActive t = false
  mem : t.hub.mem = mem
  answers : t.hub.answers = []
  settings : t.settings = s.settings
  notice : t.rings.notice = s.rings.notice
  pending : t.pending = s.pending

/-- The records once the head of the deadline list has been taken (R150). -/
def headTaken (st : Store) : Store := { st with timer.deadlines := st.timer.deadlines.tail }

/-! ## Invariants -/

/-- R147: the deadline list is in ascending order of due time. -/
def ascending : List Entry → Bool
  | e :: x :: t => decide (e.due ≤ x.due) && ascending (x :: t)
  | _ => true

/-- R132, R133: every station's net flow is in its range and its direction agrees with it. -/
def TrendAgrees (st : Store) : Prop :=
  ∀ i, -127 ≤ (stationAt st i).netFlow ∧ (stationAt st i).netFlow ≤ 127 ∧
    (stationAt st i).direction = directionOf (stationAt st i).netFlow

/-- R142, R147: the clock and every due time are clock values. -/
def TimesInRange (tm : Timer) : Prop :=
  (∀ t, tm.clock = some t → t ≤ Config.clockMax) ∧ ∀ e ∈ tm.deadlines, e.due ≤ Config.clockMax

/-- Hub memory and every record table are in their one form. -/
def Canonical (s : State) : Prop :=
  Memory.wf s.hub.mem = true ∧ canonical formattedBike s.store.fleet.bikes = true ∧
    canonical formattedDock s.store.fleet.docks = true ∧
    canonical formattedStation s.store.fleet.stations = true ∧
    canonical none s.store.cards.cards = true ∧ canonical [] s.store.cards.chains = true ∧
    canonical formattedHireSlot s.store.hires = true ∧
    canonical formattedTicketSlot s.store.faults.tickets = true ∧
    canonical formattedVan s.store.vans = true ∧ canonical formattedRing s.rings.rings = true ∧
    canonical 0 s.passOver = true

/-- R168: every pass-over count is at most 8. -/
def CountsInRange (s : State) : Prop := ∀ k, readAt 0 s.passOver k ≤ Config.passOverMax

/-- R46, R172, R173, R178, R179: while the engine is not RUNNING no STOP is pending, no load is in flight and
every request ring is OFF; and while the reset pin is asserted the engine is STOPPED and the clock UNSET. -/
def RestsUnlessRunning (s : State) : Prop :=
  (s.engine.state ≠ .running →
    s.engine.stopPending = false ∧ s.bulk = none ∧ ∀ n < requestRings, (ringAt s n).state = .off) ∧
    (s.engine.resetAsserted = true → s.engine.state = .stopped ∧ s.store.timer.clock = none)

/-- R46, R47, R164: a reserved slot stands exactly while a load is in flight, and the tallies of the load
account for its progress. -/
def LoadAccounts (s : State) : Prop :=
  s.rings.reserved.isSome = s.bulk.isSome ∧
    ∀ b, s.bulk = some b → b.progress < b.count ∧ b.count ≤ Config.bulkImages ∧
      b.processed = b.progress ∧ b.processed = b.created + b.updated + b.refused

/-- R28, R29: the ranges of the fields of a card. -/
structure CardInRange (c : Card) : Prop where
  balance : -1000000 ≤ c.balance ∧ c.balance ≤ 1000000
  carry : c.carry ≤ 255
  openHires : c.openHires.length ≤ 4
  hireLimit : 1 ≤ c.hireLimit ∧ c.hireLimit ≤ 4
  daySpent : c.daySpent ≤ Config.fareMax
  reportsToday : c.reportsToday ≤ 255

/-- R28, R29, R72: every card is in range, and the lost fee that is charged to one is not negative. -/
def CardsInRange (st : Store) : Prop :=
  (∀ k c, cardAt st k = some c → CardInRange c) ∧ 0 ≤ st.tariff.active.lostFee

/-- R32, R33: the card index. Every card stands once, in the chain of its serial's bucket; serials are
distinct; the free-slot stack holds free slots, each once; and once the store is formatted, all of them. -/
structure CardIndex (s : State) : Prop where
  freeOnce : s.store.cards.free.Nodup
  free : ∀ k ∈ s.store.cards.free, k < Config.cardSlots ∧ cardAt s.store k = none
  placed : ∀ k c, cardAt s.store k = some c → k < Config.cardSlots ∧ k ∈ chainAt s.store (bucketOf c.serial)
  chained : ∀ b k, k ∈ chainAt s.store b → ∃ c, cardAt s.store k = some c ∧ bucketOf c.serial = b
  chainedOnce : ∀ b, (chainAt s.store b).Nodup
  distinct : ∀ j k c d, cardAt s.store j = some c → cardAt s.store k = some d → c.serial = d.serial → j = k
  allFree : s.engine.formatted = true →
    ∀ k, k < Config.cardSlots → cardAt s.store k = none → k ∈ s.store.cards.free

/-- R14: a band and a threshold set as they are stored. -/
def BandInRange (b : Band) : Prop := b.low ≤ b.high ∧ b.high ≤ 64
def ThresholdsInRange (t : Thresholds) : Prop :=
  t.t1 ≤ t.t2 ∧ t.t2 ≤ t.t3 ∧ t.t3 ≤ t.t4 ∧ t.t4 ≤ t.t5 ∧ t.t5 ≤ 64

/-- R11, R14, R15: the ranges of the fields of a station that STATION_DEFINE gives. -/
structure StationInRange (r : Station) : Prop where
  range : if r.isDefined then 1 ≤ r.dockCount ∧ r.dockCount ≤ 64 ∧ r.firstDock + r.dockCount ≤ Config.docks
    else r.dockCount = 0
  peak : BandInRange r.settings.peakBand
  offPeak : BandInRange r.settings.offPeakBand
  filling : ThresholdsInRange r.settings.fillingT
  emptying : ThresholdsInRange r.settings.emptyingT
  alarm : r.settings.flashAlarm ≤ 64

/-- R2, R8, R11, R49, R65, R92, R109: the ranges of the fields of the other records. -/
structure RecordsInRange (st : Store) : Prop where
  bikes : ∀ b, (bikeAt st b).fault.strikes ≤ 15 ∧ (bikeAt st b).rides ≤ 65535
  docks : ∀ d, (dockAt st d).fault.strikes ≤ 15
  stations : ∀ i, StationInRange (stationAt st i)
  held : st.fleet.reservationsHeld ≤ Config.reservations
  hires : ∀ k, (hireSlotAt st k).gen ≤ 255
  tickets : ∀ k, (ticketSlotAt st k).gen ≤ 255
  vans : ∀ v, (vanAt st v).capacity ≤ Config.vanCapacity

/-- R154: the sizes a ring can have. -/
def GoodPlace (p : RingPlace) : Prop := p.base < 2 ^ 32 ∧ p.size ∈ [16, 32, 64, 128, 256]

/-- R154, R175, R176: the settings that an INIT loads. -/
structure SettingsInRange (set : Settings) : Prop where
  requestRings : ∀ n < 4, GoodPlace (readAt ⟨0, 0⟩ set.requestRings n)
  responseRings : ∀ n < 4, GoodPlace (readAt ⟨0, 0⟩ set.responseRings n)
  noticeRing : GoodPlace set.noticeRing
  localOffset : -50400 ≤ set.localOffset ∧ set.localOffset ≤ 50400
  releaseWindow : 15 ≤ set.releaseWindow ∧ set.releaseWindow ≤ 120
  reservationHold : 60 ≤ set.reservationHold ∧ set.reservationHold ≤ 1800
  claimDuration : 300 ≤ set.claimDuration ∧ set.claimDuration ≤ 3600
  overduePoint : 3600 ≤ set.overduePoint ∧ set.overduePoint ≤ 172800
  lostPoint : set.overduePoint + 3600 ≤ set.lostPoint ∧ set.lostPoint ≤ 604800
  trendPeriod : 60 ≤ set.trendPeriod ∧ set.trendPeriod ≤ 3600
  bikeStrikeLimit : 1 ≤ set.bikeStrikeLimit ∧ set.bikeStrikeLimit ≤ 15
  dockStrikeLimit : 1 ≤ set.dockStrikeLimit ∧ set.dockStrikeLimit ≤ 15

/-- R154, R175, R176: while the engine is RUNNING its settings are in range and the notice index is one of the
notice ring; and a request ring that is not OFF has its indexes in the rings it works on. -/
def SetupInRange (s : State) : Prop :=
  (s.engine.state = .running →
    SettingsInRange s.settings ∧ GoodPlace s.rings.notice ∧ s.rings.noticeIndex < s.rings.notice.size) ∧
    ∀ n < requestRings, (ringAt s n).state = .off ∨
      GoodPlace (ringAt s n).request ∧ GoodPlace (ringAt s n).response ∧
        (ringAt s n).head < (ringAt s n).request.size ∧
        (ringAt s n).responseIndex < (ringAt s n).response.size

/-- R74: an installed fare curve. -/
structure CurveSound (c : List Knot) : Prop where
  count : 2 ≤ c.length ∧ c.length ≤ 16
  first : ∃ v rest, c = ⟨0, v⟩ :: rest
  rising : c.Pairwise (fun k l => k.pos < l.pos ∧ k.value ≤ l.value)
  ranges : ∀ k ∈ c, k.pos ≤ 65535 ∧ k.value ≤ Config.fareMax

/-- R73: the ranges of the class parameters. -/
structure ClassSound (p : ClassParams) : Prop where
  hold : 0 ≤ p.hold ∧ p.hold ≤ 1000000
  releaseMin : 0 ≤ p.releaseMin ∧ p.releaseMin ≤ 1000000
  freeMinutes : p.freeMinutes ≤ 65535
  dailyCap : p.dailyCap ≤ Config.fareMax
  floor : -1000000 ≤ p.floor ∧ p.floor ≤ 0

/-- R72 to R75: an installed tariff. -/
structure TariffSound (t : Tariff) : Prop where
  classes : ClassSound t.member ∧ ClassSound t.casual ∧ ClassSound t.guest ∧ ClassSound t.crew
  curves : CurveSound t.memberCurve ∧ CurveSound t.casualCurve
  grid : t.grid ∈ [1, 5, 10, 15]
  windows : t.windows.length ≤ 4 ∧
    ∀ w ∈ t.windows, w.start ≤ 1440 / t.grid ∧ w.stop ≤ 1440 / t.grid ∧ 64 ≤ w.factor ∧ w.factor ≤ 128
  grace : t.grace ≤ 300
  billingStep : 1 ≤ t.billingStep ∧ t.billingStep ≤ 60
  waiverWindow : t.waiverWindow ≤ 300
  lostFee : 0 ≤ t.lostFee ∧ t.lostFee ≤ 1000000

/-- R72, R77, R78: a tariff in force is one that the checks and clamps let through. -/
def TariffInForceSound (st : Store) : Prop := st.tariff.loaded = true → TariffSound st.tariff.active

end Sys2Proof.Machine
end

