-- ==== Sys2Proof/Certificates/Slice0/Obligations.lean ====
section
/-! DEFINITION. The statements about the part, for the provers. Each docstring names the rules it rests on,
and the log entries of the model's own choices that it rests on. -/

open Sys2Proof Sys2Proof.Machine

/-! ## One step, and the invariants that every step keeps -/

/-- Log entry 1: a step carries out the command at the front of the queue, with the rest behind it. -/
def Obligations.StepTakesFront : Prop :=
  ∀ (c : Instr) (rest : List Instr) (s : State), s.pending = c :: rest → step s = exec c (s.withQueue rest)

/-- The part right after reset meets every invariant below (R179; log entries 3, 4 and 5 for what R179 does
not name). -/
def Obligations.ResetMeetsInvariants : Prop :=
  ascending State.reset.store.timer.deadlines = true ∧ TrendAgrees State.reset.store ∧
    TimesInRange State.reset.store.timer ∧ Canonical State.reset ∧ CountsInRange State.reset ∧
    RestsUnlessRunning State.reset ∧ LoadAccounts State.reset ∧ CardsInRange State.reset.store ∧
    CardIndex State.reset ∧ RecordsInRange State.reset.store ∧ SetupInRange State.reset ∧
    TariffInForceSound State.reset.store

/-- R147: the deadline list stays in ascending order of due time. -/
def Obligations.DeadlinesStayAscending : Prop :=
  ∀ s t : State, ascending s.store.timer.deadlines = true → step s = .next t →
    ascending t.store.timer.deadlines = true

/-- R132, R133: every net flow stays in its range, and every direction agrees with it. -/
def Obligations.TrendStaysInAgreement : Prop :=
  ∀ s t : State, TrendAgrees s.store → step s = .next t → TrendAgrees t.store

/-- R142, R147: the clock and every due time stay clock values. -/
def Obligations.TimesStayInRange : Prop :=
  ∀ s t : State, TimesInRange s.store.timer → step s = .next t → TimesInRange t.store.timer

/-- Hub memory and every table stay in their one form, so that equal records are equal data. -/
def Obligations.TablesStayCanonical : Prop :=
  ∀ s t : State, Canonical s → step s = .next t → Canonical t

/-- R168: every pass-over count stays at most 8. -/
def Obligations.CountsStayInRange : Prop :=
  ∀ s t : State, CountsInRange s → step s = .next t → CountsInRange t

/-- R46, R172, R173, R178, R179: while the engine is not RUNNING no STOP is pending, no load is in flight and every
request ring is OFF; and while the reset pin is asserted the engine is STOPPED and the clock UNSET. -/
def Obligations.RestsUnlessRunningStays : Prop :=
  ∀ s t : State, RestsUnlessRunning s → step s = .next t → RestsUnlessRunning t

/-- R46, R47, R164: a reserved slot stands exactly while a load is in flight, and its tallies account for its
progress. -/
def Obligations.LoadStaysAccounted : Prop :=
  ∀ s t : State, LoadAccounts s → step s = .next t → LoadAccounts t

/-- R28, R29: every card's balance, carry, hire limit, number of open hires, day spent and reports today stay
in their ranges. -/
def Obligations.CardsStayInRange : Prop :=
  ∀ s t : State, CardsInRange s.store → step s = .next t → CardsInRange t.store

/-- R32, R33, R34: the card index stays sound. -/
def Obligations.CardIndexStaysSound : Prop :=
  ∀ s t : State, CardIndex s → step s = .next t → CardIndex t

/-- R2, R8, R11, R14, R49, R65, R92, R109: the fields of every other record stay in their ranges. -/
def Obligations.RecordsStayInRange : Prop :=
  ∀ s t : State, RecordsInRange s.store → step s = .next t → RecordsInRange t.store

/-- R154, R175, R176: a RUNNING engine's settings stay in their ranges, and every ring's indexes within the
ring it works on. -/
def Obligations.SetupStaysInRange : Prop :=
  ∀ s t : State, SetupInRange s → step s = .next t → SetupInRange t

/-- R72, R73, R74, R75, R77, R78: a tariff in force stays one that the checks and the clamps let through. -/
def Obligations.TariffStaysSound : Prop :=
  ∀ s t : State, TariffInForceSound s.store → step s = .next t → TariffInForceSound t.store

/-! ## Cards -/

/-- R44, R45, R36 (layouts: log entry 13): CARD_QUERY and CARD_CHECK of a present card answer its record and
its standing; CARD_CHECK of an absent card of an accepted foreign issuer answers NOT_FOUND with
GUEST_ELIGIBLE. No record changes. -/
def Obligations.CardQueriesAnswer : Prop :=
  ∀ (q : Request) (s : State),
    (Takes 30#8 q s → ∀ slot c, Names s.store (param q 0 7) slot c →
      Completes (.cardQuery q) 30#8 q s { outcome := .ok, result := cardRecord c } [] (fun t => t = s.store)) ∧
    (Takes 4#8 q s →
      (∀ slot c, Names s.store (param q 0 7) slot c →
        Completes (.cardCheck q) 4#8 q s { outcome := .ok, result := standingRecord c } []
          (fun t => t = s.store)) ∧
      (param q 0 7 ≠ Config.serialAbsent → namedCard s.store (param q 0 7) = none →
        ForeignAccepted s.settings (param q 0 7) →
        Completes (.cardCheck q) 4#8 q s { outcome := .notFound, guestEligible := true } []
          (fun t => t = s.store)))

/-- R39, R40, R31 (layout: log entry 13): a CARD_PUT of an absent card creates it in the top slot of the stack, at
the tail of its chain, with the fields given and the rest cleared; one of a present card changes its class, hire
limit, expiry day and status and clears its guest flag. Nothing else changes. -/
def Obligations.CardPutCreatesOrUpdates : Prop :=
  (∀ (q : Request) (s : State) (cls : CardClass) (slot : Nat) (rest : List Nat), Takes 26#8 q s →
     param q 0 7 ≠ Config.serialAbsent → CardClass.ofCode (param q 7 1) = some cls →
     (param q 8 1 = 0 ∨ param q 8 1 = 2) → 1 ≤ param q 9 1 → param q 9 1 ≤ 4 →
     findCard s.store (param q 0 7) = none →
     -1000000 ≤ signedParam q 12 4 → signedParam q 12 4 ≤ 1000000 → s.store.cards.free = slot :: rest →
     let c : Card :=
       { serial := param q 0 7, cls := cls, status := if param q 8 1 = 0 then .active else .blocked
         guest := false, balance := signedParam q 12 4, carry := 0, holdTotal := 0, openHires := []
         hireLimit := param q 9 1, expiryDay := if param q 10 2 = 65535 then none else some (param q 10 2)
         capDay := 0, daySpent := 0, reservation := none, reportsToday := 0, reportDay := 0 }
     Completes (.cardPut q) 26#8 q s { outcome := .ok, result := le 1 0 ++ cardRecord c } []
       (fun t => t =
         putChain (putCard { s.store with cards.free := rest } slot (some c)) (bucketOf (param q 0 7))
           (chainAt s.store (bucketOf (param q 0 7)) ++ [slot]))) ∧
  (∀ (q : Request) (s : State) (cls : CardClass) (slot : Nat) (c : Card), Takes 26#8 q s →
     CardClass.ofCode (param q 7 1) = some cls → (param q 8 1 = 0 ∨ param q 8 1 = 2) →
     1 ≤ param q 9 1 → param q 9 1 ≤ 4 → Names s.store (param q 0 7) slot c →
     let c' : Card :=
       { c with
         cls := cls, hireLimit := param q 9 1, guest := false
         expiryDay := if param q 10 2 = 65535 then none else some (param q 10 2)
         status :=
           if param q 8 1 = 2 then .blocked
           else if c.status = .blocked ∨ c.status = .retiring then
             if 0 ≤ c.balance then .active else .suspended
           else c.status }
     Completes (.cardPut q) 26#8 q s { outcome := .ok, result := le 1 1 ++ cardRecord c' } []
       (fun t => t = putCard s.store slot (some c')))

/-- R41: CARD_CREDIT. -/
def Obligations.CardCreditMovesBalance : Prop :=
  ∀ (q : Request) (s : State), Takes 27#8 q s → param q 0 7 ≠ Config.serialAbsent →
    let amount := signedParam q 7 4
    q.ring.val = 3 ∧
    (amount < -2000000 ∨ 2000000 < amount →
      Completes (.cardCredit q) 27#8 q s { outcome := .badRequest } [] (fun t => t = s.store)) ∧
    (-2000000 ≤ amount → amount ≤ 2000000 →
      (namedCard s.store (param q 0 7) = none →
        Completes (.cardCredit q) 27#8 q s { outcome := .notFound } [] (fun t => t = s.store)) ∧
      ∀ slot c, namedCard s.store (param q 0 7) = some (slot, c) →
        let b := c.balance + amount
        (1000000 < b →
          Completes (.cardCredit q) 27#8 q s { outcome := .creditLimit } [] (fun t => t = s.store)) ∧
        (b ≤ 1000000 →
          let c' : Card :=
            { c with
              balance := if b < -1000000 then -1000000 else b
              status := if c.status = .suspended ∧ 0 ≤ b then .active else c.status }
          Completes (.cardCredit q) 27#8 q s
            { outcome := .ok
              result := encMoney c'.balance ++ encMoney (if b < -1000000 then -1000000 - b else 0) ++
                le 1 c'.status.toCode ++ encMoney (c'.balance - c'.holdTotal) }
            [] (fun t => t = putCard s.store slot (some c'))))

/-- R42: CARD_STATUS. -/
def Obligations.CardStatusBlocks : Prop :=
  ∀ (q : Request) (s : State), Takes 28#8 q s → param q 0 7 ≠ Config.serialAbsent →
    q.ring.val = 3 ∧
    (1 < param q 7 1 →
      Completes (.cardStatus q) 28#8 q s { outcome := .badRequest } [] (fun t => t = s.store)) ∧
    (param q 7 1 ≤ 1 →
      (namedCard s.store (param q 0 7) = none →
        Completes (.cardStatus q) 28#8 q s { outcome := .notFound } [] (fun t => t = s.store)) ∧
      ∀ slot c, namedCard s.store (param q 0 7) = some (slot, c) →
        (param q 7 1 = 0 → c.status = .retiring →
          Completes (.cardStatus q) 28#8 q s { outcome := .wrongState } [] (fun t => t = s.store)) ∧
        (param q 7 1 = 0 → c.status ≠ .retiring →
          Completes (.cardStatus q) 28#8 q s { outcome := .ok, result := le 1 CardStatus.blocked.toCode } []
            (fun t => t = putCard s.store slot (some { c with status := .blocked }))) ∧
        (param q 7 1 = 1 →
          let status : CardStatus :=
            if c.status = .blocked then if 0 ≤ c.balance then .active else .suspended else c.status
          Completes (.cardStatus q) 28#8 q s { outcome := .ok, result := le 1 status.toCode } []
            (fun t => t = putCard s.store slot (some { c with status := status }))))

/-- R43, R34, R65, R69: CARD_RETIRE removes a card that has no open hire, and else makes it RETIRING; a reservation
that the card holds is first ended in its three places, without a notice. That the reply gives the carry as one byte is
the model's choice (log entry 13). -/
def Obligations.CardRetireRemovesOrDefers : Prop :=
  (∀ (q : Request) (s : State) (slot : Nat) (c : Card), Takes 29#8 q s →
     Names s.store (param q 0 7) slot c → c.reservation = none →
     (c.openHires = [] →
       Completes (.cardRetire q) 29#8 q s { outcome := .ok, result := encMoney c.balance ++ le 1 c.carry } []
         (fun t => Removed s.store t slot c ∧ t = { s.store with cards := t.cards })) ∧
     (c.openHires ≠ [] →
       Completes (.cardRetire q) 29#8 q s
         { outcome := .deferred, result := le 1 c.openHires.length ++ encMoney c.balance } []
         (fun t => t = putCard s.store slot (some { c with status := .retiring })))) ∧
  (∀ (q : Request) (s : State) (slot : Nat) (c : Card) (r : Reservation), Takes 29#8 q s →
     Names s.store (param q 0 7) slot c → c.reservation = some r →
     let ended (t : Store) : Store :=
       { putBike s.store r.bike { bikeAt s.store r.bike with heldFor := none } with
         cards := t.cards, fleet.stations := t.fleet.stations
         fleet.reservationsHeld := s.store.fleet.reservationsHeld - 1
         timer.deadlines := dropEntry (.holdExpiry r.bike) s.store.timer.deadlines }
     (c.openHires = [] →
       CompletesAt (.cardRetire q) 29#8 q s { outcome := .ok, result := encMoney c.balance ++ le 1 c.carry } []
         (stationAt s.store) (stationsOfBike s.store r.bike)
         (fun t => Removed s.store t slot c ∧ t = ended t)) ∧
     (c.openHires ≠ [] →
       CompletesAt (.cardRetire q) 29#8 q s
         { outcome := .deferred, result := le 1 c.openHires.length ++ encMoney c.balance } []
         (stationAt s.store) (stationsOfBike s.store r.bike)
         (fun t => SameIndex s.store t ∧
           (∀ k, cardAt t k =
             if k = slot then some { c with reservation := none, status := .retiring }
             else cardAt s.store k) ∧ t = ended t)))

/-- R46, R164: a taken BULK_CARD_LOAD sets the load in flight and reserves the response slot; a load in flight
answers BUSY. -/
def Obligations.BulkLoadIsTaken : Prop :=
  ∀ (q : Request) (s : State), Takes 31#8 q s → 1 ≤ param q 4 2 → param q 4 2 ≤ 4096 →
    (s.bulk = none →
      ∃ t, exec (.bulkCardLoad q) s = .next t ∧
        t.bulk = some ⟨param q 0 4, param q 4 2, 0, 0, 0, 0, 0⟩ ∧
        t.rings.reserved = some ⟨(ringAt s 3).responseIndex, q.tag⟩ ∧ t.store = s.store ∧
        boardOf t = ⟨takenMem 31#8 q s, s.rings.noticeIndex, s.port.events⟩ ∧ RingMoved q s t ∧
        t.engine = { s.engine with stopPending := q.stopEngine } ∧ Kept s t ∧
        Counted (.ring q.ring.val) s t) ∧
    (s.bulk.isSome = true →
      Completes (.bulkCardLoad q) 31#8 q s { outcome := .busy } [] (fun t => t = s.store))

/-- R47, R48, R164, R39, R40: a grant to the Bulk Loader applies one image, which counts in one tally and creates or
updates a card or is refused; when it is the last, the load completes: the reserved slot is written with OK and
the tallies. -/
def Obligations.BulkImageIsApplied : Prop :=
  (∀ (hub : HubInput) (s : State) (b : BulkLoad), s.bulk = some b → arbiterChoice s = some .bulk →
     CleanBus hub →
     let mem := hubStores s.hub.mem hub.writes
     let done := applyImage s.settings s.store b (memRead mem (b.address + 32 * b.progress) 32)
     ∃ t, exec (.bulkCardImage hub) s = .next t ∧ t.store = done.1 ∧ Kept s t ∧ Counted .bulk s t ∧
       t.engine = s.engine ∧ t.rings.noticeIndex = s.rings.noticeIndex ∧
       (∀ n, n ≠ 3 → ringAt t n = ringAt s n) ∧
       (b.progress + 1 ≠ b.count →
         t.bulk = some done.2 ∧ t.rings.reserved = s.rings.reserved ∧ t.hub.mem = mem ∧
           t.port.events = s.port.events ∧ ringAt t 3 = ringAt s 3) ∧
       (b.progress + 1 = b.count → ∀ slot, s.rings.reserved = some slot →
         t.bulk = none ∧ t.rings.reserved = none ∧
           t.hub.mem = memWrite mem (slotAddress (ringAt s 3).response slot.index)
             (responseBytes 31#8 slot.tag { outcome := .ok, result := tallies done.2 } false false) ∧
           t.port.events = s.port.events ||| responseWritten 3 ∧
           ringAt t 3 = { ringAt s 3 with
             state := if (ringAt s 3).state = .blocked then seenState t 3 else (ringAt s 3).state })) ∧
  (∀ (set : Settings) (st : Store) (b : BulkLoad) (block : Nat),
     let i := imageOf block
     let bad := (set.checking = true ∧ byteSum 32 block ≠ 255) ∨ goodImage i = false
     let next := { b with progress := b.progress + 1, processed := b.processed + 1 }
     (bad → applyImage set st b block = (st, { next with refused := b.refused + 1 })) ∧
     (¬ bad →
       (∀ slot, findCard st i.serial = some slot →
         applyImage set st b block =
           (putCard st slot ((cardAt st slot).map (updatedCard i)), { next with updated := b.updated + 1 })) ∧
       (findCard st i.serial = none →
         (i.opening < -1000000 ∨ 1000000 < i.opening ∨ st.cards.free = [] →
           applyImage set st b block = (st, { next with refused := b.refused + 1 })) ∧
         ∀ slot rest, -1000000 ≤ i.opening → i.opening ≤ 1000000 → st.cards.free = slot :: rest →
           applyImage set st b block =
             (putChain (putCard { st with cards.free := rest } slot (some (createdCard i)))
               (bucketOf i.serial) (chainAt st (bucketOf i.serial) ++ [slot]),
               { next with created := b.created + 1 }))))


/-! ## Hires and reservations -/

/-- R64 (layout: log entry 13): HIRE_QUERY answers by hire and by card, and changes no record. -/
def Obligations.HireQueryAnswers : Prop :=
  ∀ (q : Request) (s : State), Takes 6#8 q s →
    (∀ r, param q 0 1 = 0 → param q 1 2 < 1024 → hireAt s.store ⟨param q 1 2, param q 3 1⟩ = some r →
      Completes (.hireQuery q) 6#8 q s
        { outcome := .ok, result := hireSummary s.store ⟨param q 1 2, param q 3 1⟩ r } []
        (fun t => t = s.store)) ∧
    (param q 0 1 = 0 → param q 1 2 < 1024 → hireAt s.store ⟨param q 1 2, param q 3 1⟩ = none →
      Completes (.hireQuery q) 6#8 q s { outcome := .staleId } [] (fun t => t = s.store)) ∧
    (∀ slot c, param q 0 1 = 1 → Names s.store (param q 1 7) slot c →
      Completes (.hireQuery q) 6#8 q s
        { outcome := .ok, result := le 1 c.openHires.length ++ c.openHires.flatMap (summaryOf s.store) } []
        (fun t => t = s.store))

/-- R51, R52, R53, R37, R6, R13: a HIRE_RELEASE that passes every check opens the lowest free hire slot for the
card, present or created as a guest, and the latch of the chosen bike's dock; a reservation on that bike for
that card ends. -/
def Obligations.ReleaseOpensHire : Prop :=
  ∀ (q : Request) (s : State) (slot : Nat) (c : Card) (st : Store) (b d k now : Nat), Takes 5#8 q s →
    ReleaseCard s (param q 0 7) slot c st → param q 7 1 < 32 →
    (param q 8 2 = 65535 ∨ param q 8 2 < 1024) → s.store.timer.clock = some now →
    s.store.tariff.loaded = true → (stationAt s.store (param q 7 1)).isDefined = true →
    Standing s.settings st now c → freeHireSlot st = some k →
    chooseRelease st slot c (param q 7 1) (dockParam (param q 8 2)) = .ok b →
    (bikeAt s.store b).place = some (.dock d) →
    let hold := (classParams s.store.tariff.active c.cls).hold
    let h : Handle := ⟨k, (hireSlotAt s.store k).gen⟩
    let due := heldAt (now + s.settings.releaseWindow)
    let held := (bikeAt s.store b).heldFor = some slot
    CompletesAt (.hireRelease q) 5#8 q s
      { outcome := .ok
        result := encHandle (some h) ++ encDock (some d) ++ encBike (some b) ++ encMoney hold ++
          encClock due ++ encMoney (availableFunds c - hold) }
      [] (stationAt s.store) (stationsOfDock s.store d)
      (fun t =>
        hireSlotAt t k = ⟨(hireSlotAt s.store k).gen, some ⟨.releasing, slot, b, d, now, none, hold, c.cls⟩⟩ ∧
        cardAt t slot = some
          { c with
            openHires := c.openHires ++ [h], holdTotal := c.holdTotal + hold
            reservation := if held then none else c.reservation } ∧
        bikeAt t b =
          { bikeAt s.store b with
            state := .releasing, hire := some h
            heldFor := if held then none else (bikeAt s.store b).heldFor } ∧
        dockAt t d = { dockAt s.store d with latch := .openForHire h } ∧
        t.timer.deadlines = insertEntry ⟨.releaseWindow h, due⟩
          (if held then dropEntry (.holdExpiry b) s.store.timer.deadlines else s.store.timer.deadlines) ∧
        t.fleet.reservationsHeld =
          (if held then s.store.fleet.reservationsHeld - 1 else s.store.fleet.reservationsHeld) ∧
        t.timer.clock = some now ∧ SameIndex st t ∧ SameWaiting s.store t ∧
        Frame st t [b] [d] [slot] [k] [] [])

/-- R66, R67, R68, R69: a RESERVE that passes every check holds the chosen bike for the card in three places;
CANCEL_RESERVATION and a HOLD_EXPIRY expiry end the reservation in the same three, whatever the card's status. -/
def Obligations.ReservationsAreHeldAndEnded : Prop :=
  (∀ (q : Request) (s : State) (slot : Nat) (c : Card) (b now : Nat), Takes 32#8 q s →
    Names s.store (param q 0 7) slot c → param q 7 1 < 32 → s.store.timer.clock = some now →
    s.store.tariff.loaded = true → (stationAt s.store (param q 7 1)).isDefined = true →
    Standing s.settings s.store now c → (freeHireSlot s.store).isSome = true → c.reservation = none →
    s.store.fleet.reservationsHeld < 512 → chooseUsable s.store (param q 7 1) = some b →
    let due := heldAt (now + s.settings.reservationHold)
    CompletesAt (.reserve q) 32#8 q s
      { outcome := .ok
        result := encBike (some b) ++ encDock (dockOfPlace (bikeAt s.store b).place) ++ encClock due }
      [] (stationAt s.store) (stationsOfBike s.store b)
      (fun t => t =
        { putBike (putCard s.store slot (some { c with reservation := some ⟨b, param q 7 1⟩ })) b
            { bikeAt s.store b with heldFor := some slot } with
          fleet.stations := t.fleet.stations
          fleet.reservationsHeld := s.store.fleet.reservationsHeld + 1
          timer.deadlines := insertEntry ⟨.holdExpiry b, due⟩ s.store.timer.deadlines })) ∧
  (∀ (q : Request) (s : State) (slot : Nat) (c : Card) (r : Reservation), Takes 7#8 q s →
    Names s.store (param q 0 7) slot c → c.reservation = some r →
    CompletesAt (.cancelReservation q) 7#8 q s
      { outcome := .ok, result := encBike (some r.bike) ++ encStation (some r.station) }
      [] (stationAt s.store) (stationsOfBike s.store r.bike)
      (fun t => t =
        { putBike (putCard s.store slot (some { c with reservation := none })) r.bike
            { bikeAt s.store r.bike with heldFor := none } with
          fleet.stations := t.fleet.stations
          fleet.reservationsHeld := s.store.fleet.reservationsHeld - 1
          timer.deadlines := dropEntry (.holdExpiry r.bike) s.store.timer.deadlines })) ∧
  (∀ (hub : HubInput) (s : State) (b slot : Nat) (c : Card) (r : Reservation),
     Expires (.holdExpiry b) hub s → (bikeAt s.store b).heldFor = some slot →
     cardAt s.store slot = some c → c.reservation = some r →
     LapsesAt (.holdExpiry hub) hub s [.holdExpired (some c.serial) b r.station]
       (stationAt s.store) (stationsOfBike s.store b)
       (fun t => t =
         { putBike (putCard s.store slot (some { c with reservation := none })) b
             { bikeAt s.store b with heldFor := none } with
           fleet.stations := t.fleet.stations
           fleet.reservationsHeld := s.store.fleet.reservationsHeld - 1
           timer.deadlines := dropEntry (.holdExpiry b) s.store.timer.deadlines.tail }))


/-! ## Fares and the tariff -/

/-- R55, R38, R49: a RELEASE_WINDOW expiry closes its hire as a lapse, without a charge; the dock keeps the
card's serial and the clock as its last lapse; and the card is closed when this was its last hire. -/
def Obligations.ReleaseLapses : Prop :=
  ∀ (hub : HubInput) (s : State) (h : Handle) (r : Hire) (c : Card) (now : Nat),
    Expires (.releaseWindow h) hub s → s.store.timer.clock = some now → hireAt s.store h = some r →
    r.state = .releasing → cardAt s.store r.card = some c →
    let c' : Card := { c with openHires := c.openHires.filter (· ≠ h), holdTotal := c.holdTotal - r.hold }
    LapsesAt (.releaseWindowExpiry hub) hub s
      (.releaseLapsed h (some c.serial) r.bike r.origin :: closingNotice c')
      (stationAt s.store) (stationsOfBike s.store r.bike ++ stationsOfDock s.store r.origin)
      (fun t =>
        LeftWith s.store t r.card c' ∧
        bikeAt t r.bike = { bikeAt s.store r.bike with hire := none, state := .docked } ∧
        dockAt t r.origin =
          { dockAt s.store r.origin with latch := .latched, lastLapse := some ⟨c.serial, now⟩ } ∧
        hireSlotAt t h.slot = ⟨((hireSlotAt s.store h.slot).gen + 1) % 256, none⟩ ∧
        t.timer.deadlines = s.store.timer.deadlines.tail ∧ t.timer.clock = some now ∧
        SameHeld s.store t ∧ SameWaiting s.store t ∧
        Frame s.store t [r.bike] [r.origin] [r.card] [h.slot] [] [])

/-- R61, R62, R89, R31, R38: an OVERDUE expiry makes its hire OVERDUE and adds its LOST entry, and changes nothing
else; a LOST expiry charges the lost fee, closes the hire, makes the bike MISSING, and closes the card when this
was its last hire. -/
def Obligations.OverdueThenLost : Prop :=
  (∀ (hub : HubInput) (s : State) (h : Handle) (r : Hire) (start : Nat),
     Expires (.overdue h) hub s → hireAt s.store h = some r → r.state = .riding → r.startTime = some start →
     let due := heldAt (start + s.settings.lostPoint)
     Lapses (.overdueExpiry hub) hub s
       [.hireOverdue h (serialOf s.store r.card) r.bike start due]
       (fun t => t =
         { putHireSlot s.store h.slot
             { hireSlotAt s.store h.slot with hire := some { r with state := .overdue } } with
           timer.deadlines := insertEntry ⟨.lost h, due⟩ s.store.timer.deadlines.tail })) ∧
  (∀ (hub : HubInput) (s : State) (h : Handle) (r : Hire) (c : Card),
     Expires (.lost h) hub s → hireAt s.store h = some r → r.state = .overdue →
     cardAt s.store r.card = some c →
     let t0 := s.store.tariff.active
     let balance := chargedBalance c.balance t0.lostFee
     let c' : Card :=
       { c with
         balance := balance, openHires := c.openHires.filter (· ≠ h), holdTotal := c.holdTotal - r.hold
         status := statusAfterCharge t0 c balance }
     LapsesAt (.lostExpiry hub) hub s
       (.bikeLost r.bike (some c.serial) h t0.lostFee (writtenOff c.balance t0.lostFee) balance ::
         closingNotice c')
       (stationAt s.store) (stationsOfBike s.store r.bike)
       (fun t =>
         LeftWith s.store t r.card c' ∧
         bikeAt t r.bike = { bikeAt s.store r.bike with hire := none, state := .missing, place := none } ∧
         hireSlotAt t h.slot = ⟨((hireSlotAt s.store h.slot).gen + 1) % 256, none⟩ ∧
         t.timer.deadlines = s.store.timer.deadlines.tail ∧ t.timer.clock = s.store.timer.clock ∧
         SameHeld s.store t ∧ SameWaiting s.store t ∧
         Frame s.store t [r.bike] [] [r.card] [h.slot] [] []))

/-- R81, R86, R87: the billable minutes, the carry and the balance of a settlement that is not waived. -/
def Obligations.FareStages : Prop :=
  ∀ (set : Settings) (t : Tariff) (c : Card) (i : FareInput),
    1 ≤ t.billingStep → ¬ (i.accepted = true ∧ i.stop - i.start ≤ t.waiverWindow) →
    let f := computeFare set t c i
    let d := i.stop - i.start
    let sum := c.carry + f.charged
    -- R81: m_b is the least multiple of the step that is not below the started minutes beyond the grace
    (t.billingStep ∣ f.minutes ∧ d - t.grace ≤ 60 * f.minutes ∧
      ∀ m, t.billingStep ∣ m → d - t.grace ≤ 60 * m → f.minutes ≤ m) ∧
    -- R86
    (f.minor = ((sum / 256 : Nat) : Int) ∧ f.carry = sum % 256) ∧
    -- R87
    (f.balance = (if c.balance - f.minor < -1000000 then -1000000 else c.balance - f.minor) ∧
      f.writeOff = (if c.balance - f.minor < -1000000 then -1000000 - (c.balance - f.minor) else 0))

/-- R80, R85: a hire is waived when the report was accepted and its duration is no more than the waiver window, and
then nothing is charged and the card's fields stand; otherwise no settlement raises the day spent above a daily
cap that is above 0, and the cap day becomes the day of the hire's end. -/
def Obligations.WaiverAndCap : Prop :=
  (∀ (set : Settings) (t : Tariff) (c : Card) (i : FareInput),
     ¬ (i.accepted = true ∧ i.stop - i.start ≤ t.waiverWindow) →
     let f := computeFare set t c i
     let before := if c.capDay = dayNumber set i.stop then c.daySpent else 0
     let cap := (classParams t i.cls).dailyCap
     f.capDay = dayNumber set i.stop ∧ f.daySpent = min (before + f.charged) 16777215 ∧
       (cap = 0 → f.charged = f.before) ∧
       (0 < cap → f.charged = min f.before (cap - before) ∧ (before ≤ cap → before + f.charged ≤ cap))) ∧
  (∀ (set : Settings) (t : Tariff) (c : Card) (i : FareInput),
     ((computeFare set t c i).waived = true ↔ i.accepted = true ∧ i.stop - i.start ≤ t.waiverWindow) ∧
     ((computeFare set t c i).waived = true →
       computeFare set t c i = ⟨0, 0, 0, 0, 0, c.balance, c.carry, c.capDay, c.daySpent, true⟩))

/-- R74: the fare of an installed curve, read between two knots and carried on past the last. -/
def Obligations.CurveReadsBetweenKnots : Prop :=
  ∀ (curve : List Knot) (x : Nat), CurveSound curve →
    (∀ j k l, curve[j]? = some k → curve[j + 1]? = some l → k.pos ≤ x → x < l.pos →
      curveFare curve x = k.value + (x - k.pos) * (l.value - k.value) / (l.pos - k.pos)) ∧
    (∀ k l, curve[curve.length - 2]? = some k → curve[curve.length - 1]? = some l → l.pos ≤ x →
      curveFare curve x =
        min (l.value + (x - l.pos) * (l.value - k.value) / (l.pos - k.pos)) 16777215)

/-- R76, R77, R78, R79, R185 (layout of the reply: log entry 13): a TARIFF_LOAD whose block passes the checks
installs it clamped and sets the loaded flag; one that fails answers BAD_TARIFF and changes nothing. -/
def Obligations.TariffLoadInstalls : Prop :=
  ∀ (q : Request) (s : State), Takes 20#8 q s → 300 ≤ param q 4 2 →
    let block := memRead (takenMem 20#8 q s) (param q 0 4) 300
    (tariffRefusal s.settings.checking block = none →
      Completes (.tariffLoad q) 20#8 q s
        { outcome := .ok
          result := le 1 (blockWindowCount block) ++ le 1 (clampFlags (blockTariff block)) } []
        (fun t => t = { s.store with tariff := ⟨true, clampTariff (blockTariff block)⟩ })) ∧
    (∀ reason curve, tariffRefusal s.settings.checking block = some (reason, curve) →
      Completes (.tariffLoad q) 20#8 q s { outcome := .badTariff, reason := reason, result := curve } []
        (fun t => t = s.store))

/-! ## Fleet tables -/

/-- R19, R20, R131, R107 (layouts: log entry 13): BIKE_QUERY, STATION_QUERY, VAN_QUERY and TICKET_QUERY answer the
records as they stand, and change none. -/
def Obligations.FleetAndTicketQueriesAnswer : Prop :=
  (∀ (q : Request) (s : State),
     (Takes 36#8 q s → param q 0 2 < 2048 →
       Completes (.bikeQuery q) 36#8 q s { outcome := .ok, result := bikeRecord s.store (param q 0 2) } []
         (fun t => t = s.store)) ∧
     (Takes 37#8 q s → param q 0 1 < 32 → (stationAt s.store (param q 0 1)).isDefined = true →
       (param q 1 1 = 0 →
         Completes (.stationQuery q) 37#8 q s
           { outcome := .ok, result := censusRecord (stationAt s.store (param q 0 1)) } []
           (fun t => t = s.store)) ∧
       (param q 1 1 = 1 →
         Completes (.stationQuery q) 37#8 q s
           { outcome := .ok, result := settingsRecord (stationAt s.store (param q 0 1)) } []
           (fun t => t = s.store))) ∧
     (Takes 18#8 q s → ∀ v, Crewed s.store q v →
       Completes (.vanQuery q) 18#8 q s { outcome := .ok, result := vanRecord s.store v } []
         (fun t => t = s.store))) ∧
  (∀ (q : Request) (s : State), Takes 35#8 q s →
     (∀ k, param q 0 1 = 0 → (handleParam q 1).slot < 512 → ticketAt s.store (handleParam q 1) = some k →
       Completes (.ticketQuery q) 35#8 q s
         { outcome := .ok, result := ticketRecord (begun s) (handleParam q 1) k } []
         (fun t => t = s.store)) ∧
     (∀ sub, param q 0 1 = 1 → subjectParam (param q 1 1) (param q 2 2) = some sub →
       Completes (.ticketQuery q) 35#8 q s { outcome := .ok, result := subjectRecord s.store sub } []
         (fun t => t = s.store)) ∧
     (param q 0 1 = 2 →
       Completes (.ticketQuery q) 35#8 q s { outcome := .ok, result := summaryRecord s.store } []
         (fun t => t = s.store)))

/-- R14, R15, R140, R13: a taken STATION_DEFINE stores the clamped settings and the range; the docks of the old
range alone leave, those of the new range alone join, and the others stand. Each setting is at most 64, no
threshold below the one before it, no high below its low; a value that needs no clamp is kept. -/
def Obligations.StationDefineSetsRange : Prop :=
  (∀ (q : Request) (s : State) (i first count : Nat), Takes 21#8 q s → i = param q 0 1 →
     first = param q 1 2 → count = param q 3 1 → i < 32 → first < 1024 → 1 ≤ count → count ≤ 64 →
     rangeRefusal s.store i first count = 0 →
     let r := stationAt s.store i
     let r' : Station :=
       { r with isDefined := true, firstDock := first, dockCount := count, settings := stationSettings q }
     let old (d : Nat) : Prop := r.firstDock ≤ d ∧ d < r.firstDock + r.dockCount
     let new (d : Nat) : Prop := first ≤ d ∧ d < first + count
     ∃ concerned, i ∈ concerned ∧
       (∀ j ∈ concerned, j = i ∨ ∃ d, (old d ∨ new d) ∧ (dockAt s.store d).station = some j) ∧
       CompletesAt (.stationDefine q) 21#8 q s { outcome := .ok, result := settingsRecord r' } []
         (fun j => if j = i then r' else stationAt s.store j) concerned
         (fun t =>
           (∀ d, old d → ¬ new d → dockAt t d =
             { dockAt s.store d with
               station := none, service := .undefined, content := .empty, latch := .latched
               lastLapse := none }) ∧
           (∀ d, new d → ¬ old d → dockAt t d =
             { dockAt s.store d with
               station := some i, service := .inService, content := .empty, latch := .latched }) ∧
           (∀ d, (old d ↔ new d) → dockAt t d = dockAt s.store d) ∧
           t = { s.store with fleet.docks := t.fleet.docks, fleet.stations := t.fleet.stations })) ∧
  (∀ low high, BandInRange (clampBand low high) ∧ (clampBand low high).low = min low 64 ∧
    (low ≤ high → high ≤ 64 → clampBand low high = ⟨low, high⟩)) ∧
  (∀ a b c d e, ThresholdsInRange (clampThresholds a b c d e) ∧ (clampThresholds a b c d e).t1 = min a 64 ∧
    (a ≤ b → b ≤ c → c ≤ d → d ≤ e → e ≤ 64 → clampThresholds a b c d e = ⟨a, b, c, d, e⟩)) ∧
  clampThresholds 2 5 4 70 9 = ⟨2, 5, 5, 64, 64⟩

/-- R16, R17, R18 (layout of the replies: log entry 13): commissioning and decommissioning. -/
def Obligations.CommissioningSetsRecords : Prop :=
  (∀ (q : Request) (s : State) (b : Nat), Takes 23#8 q s → b = param q 0 2 → b < 2048 →
    ((bikeAt s.store b).state = .uncommissioned ∨ (bikeAt s.store b).state = .retired) →
    let u := putBike s.store b ⟨.workshop, none, none, none, ⟨none, none, 0, false⟩, 0⟩
    CompletesAt (.bikeCommission q) 23#8 q s { outcome := .ok, result := bikeRecord u b } []
      (stationAt s.store) (stationsOfBike s.store b)
      (fun t => t = { u with fleet.stations := t.fleet.stations })) ∧
  (∀ (q : Request) (s : State) (b : Nat), Takes 24#8 q s → b = param q 0 2 → b < 2048 →
    ((bikeAt s.store b).state = .workshop ∨ (bikeAt s.store b).state = .missing) →
    (bikeAt s.store b).fault.ticket = none →
    let r := bikeAt s.store b
    let u := putBike s.store b
      { r with state := .uncommissioned, place := none, fault := { r.fault with pending := none } }
    CompletesAt (.bikeDecommission q) 24#8 q s { outcome := .ok, result := bikeRecord u b } []
      (stationAt s.store) (stationsOfBike s.store b)
      (fun t => t =
        { u with
          fleet.stations := t.fleet.stations
          faults.waiting := s.store.faults.waiting.filter (· ≠ .bike b) })) ∧
  (∀ (q : Request) (s : State) (d : Nat), Takes 25#8 q s → d = param q 0 2 → d < 1024 →
    (dockAt s.store d).service = .retired → (∀ b, (dockAt s.store d).content ≠ .bike b) →
    let r := dockAt s.store d
    let u := putDock s.store d
      { r with
        service := .inService, content := .empty, latch := .latched, lastLapse := none
        fault := { r.fault with ticket := none, strikes := 0, condemned := false } }
    CompletesAt (.dockCommission q) 25#8 q s { outcome := .ok } [] (stationAt s.store)
      (stationsOfDock s.store d) (fun t => t = { u with fleet.stations := t.fleet.stations }))

/-- R52, R67, R70, R118: the choice of a usable bike takes the fewest rides, ties to the lowest dock; the choice
of a station takes the highest score above 0, ties to the lowest index. -/
def Obligations.ChoicesTakeTheBest : Prop :=
  (∀ (st : Store) (i b : Nat), chooseUsable st i = some b →
    ∃ d ∈ rangeDocks (stationAt st i).firstDock (stationAt st i).dockCount, usableIn st d = some b ∧
      ∀ e ∈ rangeDocks (stationAt st i).firstDock (stationAt st i).dockCount, ∀ b',
        usableIn st e = some b' →
          (bikeAt st b).rides ≤ (bikeAt st b').rides ∧ (e < d → (bikeAt st b).rides < (bikeAt st b').rides)) ∧
  (∀ (st : Store) (i : Nat), chooseUsable st i = none →
    ∀ d ∈ rangeDocks (stationAt st i).firstDock (stationAt st i).dockCount, usableIn st d = none) ∧
  (∀ (set : Settings) (st : Store) (v mode i : Nat), chooseStation set st v mode = some i →
    i < 32 ∧ candidate st v i = true ∧ 0 < (jobScore set st v mode i).2 ∧
      ∀ j < 32, candidate st v j = true →
        (jobScore set st v mode j).2 ≤ (jobScore set st v mode i).2 ∧
          (j < i → (jobScore set st v mode j).2 < (jobScore set st v mode i).2)) ∧
  (∀ (set : Settings) (st : Store) (v mode : Nat), chooseStation set st v mode = none →
    ∀ j < 32, candidate st v j = true → (jobScore set st v mode j).2 = 0)

/-- R21, R23, R24, R59, R60, R80, R31, R38, R132 (layout: R184): the arrival of a hired bike at an EMPTY dock,
with no button and no damage and no service falling due, settles its hire. -/
def Obligations.ArrivalSettlesHire : Prop :=
  ∀ (q : Request) (s : State) (d b : Nat) (h : Handle) (r : Hire) (c : Card) (start now : Nat),
    Takes 1#8 q s → d = param q 0 2 → b = param q 2 2 → d < 1024 → b < 2048 →
    param q 4 1 = 0 → param q 5 1 = 0 →
    ((dockAt s.store d).service = .inService ∨ (dockAt s.store d).service = .outOfService) →
    (dockAt s.store d).content = .empty → (bikeAt s.store b).state = .onHire →
    (bikeAt s.store b).hire = some h → hireAt s.store h = some r → r.startTime = some start →
    cardAt s.store r.card = some c → s.store.timer.clock = some now →
    s.settings.serviceInterval ≠ min ((bikeAt s.store b).rides + 1) 65535 →
    let t0 := s.store.tariff.active
    let f := computeFare s.settings t0 c ⟨start, now, r.cls, false⟩
    let k := bikeAt s.store b
    let c' : Card :=
      { c with
        balance := f.balance, carry := f.carry, capDay := f.capDay, daySpent := f.daySpent
        openHires := c.openHires.filter (· ≠ h), holdTotal := c.holdTotal - r.hold
        status := statusAfterCharge t0 c f.balance }
    CompletesAt (.bikeArrived q) 1#8 q s
      { outcome := .ok
        result := le 2 b ++ le 1 4 ++ le 1 1 ++ le 1 0 ++ le 3 0 ++ le 1 k.fault.strikes ++
          encFlag k.fault.condemned ++
          Settlement.record ⟨h, c.serial, b, r.origin, d, r.state, start, now, f, c'.status,
            decide (ClosesAtLast c')⟩ }
      (closingNotice c') (bumped s.store d 1) (stationsOfBike s.store b ++ stationsOfDock s.store d)
      (fun t =>
        LeftWith s.store t r.card c' ∧
        bikeAt t b =
          { k with state := .docked, place := some (.dock d), hire := none, rides := min (k.rides + 1) 65535 } ∧
        dockAt t d =
          { dockAt s.store d with content := .bike b, latch := .latched, lastLapse := none } ∧
        hireSlotAt t h.slot = ⟨((hireSlotAt s.store h.slot).gen + 1) % 256, none⟩ ∧
        t.timer.deadlines = dropEntry (.lost h) (dropEntry (.overdue h) s.store.timer.deadlines) ∧
        t.faults.tickets = (ticketIn s.store b .opened).faults.tickets ∧
        t.timer.clock = some now ∧ SameHeld s.store t ∧ SameWaiting s.store t ∧
        Frame s.store t [b] [d] [r.card] [h.slot] ((k.fault.ticket.map Handle.slot).toList) [])

/-- R24, R97, R129, R132: the arrival of a MISSING bike, or of a bike carried by a van, at an EMPTY dock, with no
button and no damage: the bike is DOCKED there, BIKE_FOUND is noticed or the manifest loses it. -/
def Obligations.ArrivalFindsOrUnloads : Prop :=
  ∀ (q : Request) (s : State) (d b : Nat), Takes 1#8 q s → d = param q 0 2 → b = param q 2 2 →
    d < 1024 → b < 2048 → param q 4 1 = 0 → param q 5 1 = 0 →
    ((dockAt s.store d).service = .inService ∨ (dockAt s.store d).service = .outOfService) →
    (dockAt s.store d).content = .empty →
    let k := bikeAt s.store b
    let docked (t : Store) : Prop :=
      bikeAt t b = { k with state := .docked, place := some (.dock d) } ∧
      dockAt t d = { dockAt s.store d with content := .bike b, latch := .latched, lastLapse := none } ∧
      t.faults.tickets = (ticketIn s.store b .opened).faults.tickets ∧ t.cards = s.store.cards ∧
      t.timer = s.store.timer ∧ SameHeld s.store t ∧ SameWaiting s.store t
    let tickets := (k.fault.ticket.map Handle.slot).toList
    let reply (code : Nat) : Reply :=
      { outcome := .ok
        result := le 2 b ++ le 1 code ++ le 1 0 ++ le 1 0 ++ le 3 0 ++ le 1 k.fault.strikes ++
          encFlag k.fault.condemned }
    (k.state = .missing →
      CompletesAt (.bikeArrived q) 1#8 q s (reply 7) [.bikeFound b d] (bumped s.store d 1)
        (stationsOfBike s.store b ++ stationsOfDock s.store d)
        (fun t => docked t ∧ Frame s.store t [b] [d] [] [] tickets [])) ∧
    (∀ v, k.state = .inVan → k.place = some (.van v) →
      CompletesAt (.bikeArrived q) 1#8 q s (reply 5) [] (bumped s.store d 1) (stationsOfDock s.store d)
        (fun t => docked t ∧
          vanAt t v =
            { vanAt s.store v with manifest := (vanAt s.store v).manifest.filter (· ≠ b) } ∧
          Frame s.store t [b] [d] [] [] tickets [v]))

/-- R25, R54, R125, R97, R110, R132 (layout: log entry 13): a removal at an open latch begins the ride of its
hire, or completes the load of its van. -/
def Obligations.RemovalAtOpenLatch : Prop :=
  ∀ (q : Request) (s : State) (d b now : Nat), Takes 2#8 q s → d = param q 0 2 → d < 1024 →
    (param q 2 2 = b ∨ param q 2 2 = 65534) → b < 2048 → (dockAt s.store d).service ≠ .undefined →
    (dockAt s.store d).content = .bike b → s.store.timer.clock = some now →
    let emptied : Dock :=
      { dockAt s.store d with content := .empty, latch := .latched, lastLapse := none }
    let same (t : Store) : Prop :=
      dockAt t d = emptied ∧ t.cards = s.store.cards ∧ t.timer.clock = some now ∧ SameHeld s.store t ∧
        SameWaiting s.store t
    (∀ h r, (dockAt s.store d).latch = .openForHire h → hireAt s.store h = some r → r.bike = b →
      CompletesAt (.bikeRemoved q) 2#8 q s { outcome := .ok, result := le 1 0 ++ encHandle (some h) } []
        (bumped s.store d (-1)) (stationsOfBike s.store b ++ stationsOfDock s.store d)
        (fun t => same t ∧
          hireSlotAt t h.slot =
            { hireSlotAt s.store h.slot with
              hire := some { r with state := .riding, startTime := some now } } ∧
          bikeAt t b = { bikeAt s.store b with state := .onHire, place := some (.hire h) } ∧
          t.timer.deadlines = insertEntry ⟨.overdue h, heldAt (now + s.settings.overduePoint)⟩
            (dropEntry (.releaseWindow h) s.store.timer.deadlines) ∧
          Frame s.store t [b] [d] [] [h.slot] [] [])) ∧
    (∀ v, (dockAt s.store d).latch = .openForVan v →
      CompletesAt (.bikeRemoved q) 2#8 q s
        { outcome := .ok
          result := le 1 1 ++ encHandle none ++ encStation (some v) ++
            le 1 ((vanAt s.store v).manifest.length + 1) } []
        (bumped s.store d (-1)) (stationsOfBike s.store b ++ stationsOfDock s.store d)
        (fun t => same t ∧
          vanAt t v =
            { vanAt s.store v with manifest := (vanAt s.store v).manifest ++ [b], load := none } ∧
          bikeAt t b = { bikeAt s.store b with state := .inVan, place := some (.van v) } ∧
          t.timer.deadlines = dropEntry (.loadWindow v) s.store.timer.deadlines ∧
          t.faults.tickets = (ticketIn s.store b .collected).faults.tickets ∧
          Frame s.store t [b] [d] [] []
            (((bikeAt s.store b).fault.ticket.map Handle.slot).toList) [v]))

/-! ## Faults and tickets -/

/-- R101, R94, R95, R96 (layout: log entry 13): DOCK_STATUS raises no fault on OK or on a RETIRED dock; a fault
on a dock without one opens a ticket, or waits when the table is full; one on a dock with a ticket or a pending
cause merges. The dock holds no held bike. The strikes and the condemned flag follow the strike rule (R95). -/
def Obligations.DockStatusRaisesFault : Prop :=
  (∀ (q : Request) (s : State) (d i : Nat), Takes 3#8 q s → d = param q 0 2 → d < 1024 →
     (dockAt s.store d).service ≠ .undefined →
     let r := dockAt s.store d
     let gen (k : Nat) := (ticketSlotAt s.store k).gen
     let put (f : FaultState) : Store := putDock s.store d { r with fault := f, service := .outOfService }
     let answer (code : Nat) (detail : List Byte) (f : FaultState) : Reply :=
       { outcome := .ok, result := le 1 code ++ detail ++ le 1 f.strikes ++ encFlag f.condemned }
     (param q 2 1 = 0 →
       Completes (.dockStatus q) 3#8 q s { outcome := .ok, result := le 1 0 } [] (fun t => t = s.store)) ∧
     (∀ c, (param q 2 1, c) ∈ [(1, Cause.dLatch), (2, Cause.dReader), (3, Cause.dPower)] →
       (r.service = .retired →
         Completes (.dockStatus q) 3#8 q s { outcome := .ok, result := le 1 4 } [] (fun t => t = s.store)) ∧
       (r.service ≠ .retired → r.station = some i →
         (∀ b, r.content = .bike b → (bikeAt s.store b).heldFor = none) →
         (∀ k, r.fault.ticket = none → r.fault.pending = none → freeTicketSlot s.store = some k →
           let f := countStrike s.settings (.dock d) c { r.fault with ticket := some ⟨k, gen k⟩ }
           CompletesAt (.dockStatus q) 3#8 q s (answer 1 (encHandle (some ⟨k, gen k⟩)) f)
             [.ticketOpened ⟨k, gen k⟩ (.dock d) c .opened none f.strikes f.condemned false]
             (stationAt s.store) [i]
             (fun t => t =
               { putTicketSlot (put f) k
                   ⟨gen k, some ⟨.dock d, c, .opened, s.store.timer.clock, none⟩⟩ with
                 fleet.stations := t.fleet.stations })) ∧
         (r.fault.ticket = none → r.fault.pending = none → freeTicketSlot s.store = none →
           let f := countStrike s.settings (.dock d) c { r.fault with pending := some c }
           let n := s.store.faults.waiting.length + 1
           CompletesAt (.dockStatus q) 3#8 q s (answer 2 (le 2 n) f)
             [.ticketWaiting (.dock d) c n f.strikes f.condemned] (stationAt s.store) [i]
             (fun t => t =
               { put f with
                 faults.waiting := s.store.faults.waiting ++ [.dock d]
                 fleet.stations := t.fleet.stations })) ∧
         (∀ id, r.fault.ticket = some id →
           let f := countStrike s.settings (.dock d) c r.fault
           CompletesAt (.dockStatus q) 3#8 q s (answer 3 (encHandle (some id)) f)
             [.faultMerged (.dock d) c (some id) none f.strikes f.condemned] (stationAt s.store) [i]
             (fun t => t = { put f with fleet.stations := t.fleet.stations })) ∧
         (∀ p, r.fault.ticket = none → r.fault.pending = some p →
           let f := countStrike s.settings (.dock d) c r.fault
           CompletesAt (.dockStatus q) 3#8 q s (answer 3 (encCause (some p)) f)
             [.faultMerged (.dock d) c none (some p) f.strikes f.condemned] (stationAt s.store) [i]
             (fun t => t = { put f with fleet.stations := t.fleet.stations }))))) ∧
  (∀ (set : Settings) (sub : Subject) (c : Cause) (f : FaultState),
     ((policyOf set c).countsStrike = false → countStrike set sub c f = f) ∧
     ((policyOf set c).countsStrike = true →
       (countStrike set sub c f).strikes = min (f.strikes + 1) 15 ∧
       ((countStrike set sub c f).condemned = true ↔
         f.condemned = true ∨
           strikeLimit set sub ≤ min (f.strikes + 1) 15 ∧ (policyOf set c).permanent = true) ∧
       (countStrike set sub c f).ticket = f.ticket ∧ (countStrike set sub c f).pending = f.pending))

/-- R102, R94, R97 (layout: log entry 13): CREW_FLAG opens a B_CREW_FLAG ticket on a bike of the van or of its
claimed station that has no fault and is not held. -/
def Obligations.CrewFlagOpensTicket : Prop :=
  ∀ (q : Request) (s : State) (v b k : Nat), Takes 17#8 q s → Crewed s.store q v → b = param q 8 2 →
    b < 2048 →
    ((bikeAt s.store b).place = some (.van v) ∨
      ∃ d, (bikeAt s.store b).place = some (.dock d) ∧ claimsDock s.store v d = true) →
    (bikeAt s.store b).state ≠ .retired → (bikeAt s.store b).heldFor = none →
    (bikeAt s.store b).fault.ticket = none → (bikeAt s.store b).fault.pending = none →
    freeTicketSlot s.store = some k →
    let r := bikeAt s.store b
    let id : Handle := ⟨k, (ticketSlotAt s.store k).gen⟩
    let f := countStrike s.settings (.bike b) .bCrewFlag { r.fault with ticket := some id }
    let state : TicketState :=
      if r.state = .inVan then .collected else if r.state = .workshop then .inWorkshop else .opened
    CompletesAt (.crewFlag q) 17#8 q s
      { outcome := .ok
        result := le 1 1 ++ encHandle (some id) ++ le 1 f.strikes ++ encFlag f.condemned }
      [.ticketOpened id (.bike b) .bCrewFlag state none f.strikes f.condemned false]
      (stationAt s.store) (stationsOfBike s.store b)
      (fun t => t =
        { putTicketSlot (putBike s.store b { r with fault := f }) k
            ⟨id.gen, some ⟨.bike b, .bCrewFlag, state, s.store.timer.clock, none⟩⟩ with
          fleet.stations := t.fleet.stations })

/-- R99, R103, R105, R106 (layout: log entry 13): FIELD_CLEAR, TICKET_CLOSE and DOCK_RESTORE close the ticket of a
subject that is not condemned, with nobody waiting: the slot is freed, its generation rises, and the subject is
blocked by it no more. -/
def Obligations.TicketsClose : Prop :=
  ∀ (q : Request) (s : State) (id : Handle) (k : Ticket), ticketAt s.store id = some k → id.slot < 512 →
    (faultOf s.store k.subject).condemned = false → Serviceable s.store k.subject →
    s.store.faults.waiting = [] →
    let closed (overhaul : Bool) (t : Store) : Prop :=
      SubjectClosed s.store t overhaul k.subject ∧
        t = { s.store with
          fleet.bikes := t.fleet.bikes, fleet.docks := t.fleet.docks, fleet.stations := t.fleet.stations
          faults.tickets :=
            (putTicketSlot s.store id.slot ⟨((ticketSlotAt s.store id.slot).gen + 1) % 256, none⟩).faults.tickets }
    let reply : Reply :=
      { outcome := .ok
        result := encHandle (some id) ++ encSubject (some k.subject) ++ encCause (some k.cause) ++ le 1 0 ++
          encHandle none ++ encSubject none }
    (∀ v, Takes 16#8 q s → Crewed s.store q v → id = handleParam q 8 →
      subjectRefusal s.store v k.subject = none → fieldCloses s.settings k.cause = true →
      CompletesAt (.fieldClear q) 16#8 q s reply [] (stationAt s.store) (stationsOf s.store k.subject)
        (closed false)) ∧
    (∀ o : Bool, Takes 33#8 q s → id = handleParam q 0 → param q 3 1 = (if o then 1 else 0) →
      CompletesAt (.ticketClose q) 33#8 q s reply [] (stationAt s.store) (stationsOf s.store k.subject)
        (closed o)) ∧
    (∀ d, Takes 34#8 q s → d = param q 0 2 → d < 1024 → k.subject = .dock d →
      (dockAt s.store d).fault.ticket = some id →
      CompletesAt (.dockRestore q) 34#8 q s
        { outcome := .ok
          result := le 1 0 ++ encHandle (some id) ++ le 1 0 ++ encHandle none ++ encSubject none } []
        (stationAt s.store) (stationsOfDock s.store d) (closed false))

/-- R98, R99, R5: TICKET_CLOSE of a condemned bike DOCKED in a dock retires the bike, with nobody waiting: its
place becomes none and the dock's content UNIDENTIFIED. -/
def Obligations.CondemnedBikeRetires : Prop :=
  ∀ (q : Request) (s : State) (id : Handle) (k : Ticket) (b d : Nat), Takes 33#8 q s →
    id = handleParam q 0 → param q 3 1 = 0 → id.slot < 512 → ticketAt s.store id = some k →
    k.subject = .bike b → (bikeAt s.store b).fault.condemned = true →
    (bikeAt s.store b).state = .docked → (bikeAt s.store b).place = some (.dock d) →
    s.store.faults.waiting = [] →
    CompletesAt (.ticketClose q) 33#8 q s
      { outcome := .ok
        result := encHandle (some id) ++ encSubject (some (.bike b)) ++ encCause (some k.cause) ++ le 1 1 ++
          encHandle none ++ encSubject none } []
      (stationAt s.store) (stationsOfDock s.store d)
      (fun t =>
        bikeAt t b =
          { bikeAt s.store b with
            state := .retired, place := none, fault := { (bikeAt s.store b).fault with ticket := none } } ∧
        dockAt t d =
          { dockAt s.store d with content := .unidentified, latch := .latched, lastLapse := none } ∧
        ticketSlotAt t id.slot = ⟨((ticketSlotAt s.store id.slot).gen + 1) % 256, none⟩ ∧
        t.cards = s.store.cards ∧ t.timer = s.store.timer ∧ SameHeld s.store t ∧ SameWaiting s.store t ∧
        Frame s.store t [b] [d] [] [] [id.slot] [])

/-- R100: serving opens a ticket for the head of the waiting list, for its pending cause, in the lowest free
slot; no strike is counted. -/
def Obligations.ServingOpensTicket : Prop :=
  ∀ (w : Work) (sub : Subject) (rest : List Subject) (k : Nat) (c : Cause),
    w.store.faults.waiting = sub :: rest → freeTicketSlot w.store = some k →
    (faultOf w.store sub).pending = some c →
    let id : Handle := ⟨k, (ticketSlotAt w.store k).gen⟩
    let f := faultOf w.store sub
    let u := w.serve.1.store
    w.serve.2 = some (id, sub) ∧ u.faults.waiting = rest ∧
      ticketSlotAt u k =
        ⟨id.gen, some ⟨sub, c, openingState w.store sub, w.store.timer.clock, none⟩⟩ ∧
      faultOf u sub = { f with ticket := some id, pending := none } ∧
      w.serve.1.notices = w.notices ++
        [.ticketOpened id sub c (openingState w.store sub) none f.strikes f.condemned true] ∧
      (∀ j, j ≠ k → ticketSlotAt u j = ticketSlotAt w.store j) ∧
      u.cards = w.store.cards ∧ u.hires = w.store.hires ∧ u.vans = w.store.vans ∧ u.timer = w.store.timer

/-! ## Vans -/

/-- R111: VAN_DEFINE. An undefined van is as INIT_FORMAT left it (R109), and such a one is OFF_SHIFT with an empty
manifest afterwards. -/
def Obligations.VanDefineSetsCapacity : Prop :=
  ∀ (q : Request) (s : State) (v capacity : Nat), Takes 22#8 q s → v = param q 0 1 →
    capacity = param q 1 1 →
    let r := vanAt s.store v
    let loading := if r.load.isSome then 1 else 0
    let r' : Van := { r with isDefined := true, capacity := capacity }
    q.ring.val = 3 ∧
    (7 < v ∨ capacity = 0 ∨ 24 < capacity →
      Completes (.vanDefine q) 22#8 q s { outcome := .badRequest } [] (fun t => t = s.store)) ∧
    (v ≤ 7 → 1 ≤ capacity → capacity ≤ 24 →
      (r.isDefined = true → capacity < r.manifest.length + loading →
        Completes (.vanDefine q) 22#8 q s { outcome := .wrongState } [] (fun t => t = s.store)) ∧
      (r.isDefined = false ∨ r.manifest.length + loading ≤ capacity →
        Completes (.vanDefine q) 22#8 q s
          { outcome := .ok, result := le 1 capacity ++ le 1 (capacity - r.manifest.length - loading) } []
          (fun t => t = putVan s.store v r' ∧
            (r = formattedVan → (vanAt t v).crew = none ∧ (vanAt t v).manifest = []))))

/-- R113, R114, R117, R121 (layouts: log entry 13): a VAN_SHIFT_START that passes every check makes the serial the
crew card; a VAN_SHIFT_END of a van without a load clears it, and the van's claim in its three places. -/
def Obligations.ShiftsStartAndEnd : Prop :=
  (∀ (q : Request) (s : State) (v slot : Nat) (c : Card), Takes 8#8 q s → v = param q 0 1 → v < 8 →
    (vanAt s.store v).isDefined = true → (vanAt s.store v).crew = none →
    Names s.store (param q 1 7) slot c → c.cls = .crew → c.status = .active →
    (∀ u < 8, u ≠ v → (vanAt s.store u).crew ≠ some (param q 1 7)) →
    let r := vanAt s.store v
    Completes (.vanShiftStart q) 8#8 q s
      { outcome := .ok
        result := le 1 r.capacity ++ le 1 (freePlaces r) ++ le 1 r.manifest.length ++
          r.manifest.flatMap (fun b => encBike (some b)) } []
      (fun t => t = putVan s.store v { r with crew := some (param q 1 7) })) ∧
  (∀ (q : Request) (s : State) (v : Nat), Takes 9#8 q s → Crewed s.store q v →
    (vanAt s.store v).load = none →
    let r := vanAt s.store v
    let released := r.claim.map Claim.station
    Completes (.vanShiftEnd q) 9#8 q s
      { outcome := .ok, result := encStation released ++ le 1 r.manifest.length } []
      (fun t =>
        (∀ k, vanAt t k = if k = v then { r with claim := none, crew := none } else vanAt s.store k) ∧
        (∀ k, stationAt t k =
          if released = some k then { stationAt s.store k with claimedBy := none }
          else stationAt s.store k) ∧
        t = { s.store with
          vans := t.vans, fleet.stations := t.fleet.stations
          timer.deadlines :=
            if released.isSome then dropEntry (.claimExpiry v) s.store.timer.deadlines
            else s.store.timer.deadlines }))

/-- R117, R118, R119, R120, R121, R122 (layouts: log entry 13): VAN_SUGGEST and VAN_CLAIM set a claim in its three
places, that held before being cleared; VAN_RELEASE_CLAIM and a CLAIM_EXPIRY expiry clear one. A VAN_SUGGEST
with no station to choose changes nothing. -/
def Obligations.ClaimsAreSetAndCleared : Prop :=
  (∀ (q : Request) (s : State) (v mode now : Nat), Takes 10#8 q s → Crewed s.store q v →
    mode = param q 8 1 → mode ≤ 2 → s.store.timer.clock = some now → (vanAt s.store v).load = none →
    let old := (vanAt s.store v).claim.map Claim.station
    (chooseStation s.settings s.store v mode = none →
      Completes (.vanSuggest q) 10#8 q s { outcome := .noJob } [] (fun t => t = s.store)) ∧
    (∀ i, chooseStation s.settings s.store v mode = some i →
      Completes (.vanSuggest q) 10#8 q s
        { outcome := .ok
          result := suggestRecord (begun s) v mode i ++ encStation (if old = some i then none else old) } []
        (fun t => ClaimSet s.store t v i (heldAt (now + s.settings.claimDuration)) old))) ∧
  (∀ (q : Request) (s : State) (v i now : Nat), Takes 11#8 q s → Crewed s.store q v → i = param q 8 1 →
    i < 32 → s.store.timer.clock = some now → (vanAt s.store v).load = none →
    (stationAt s.store i).isDefined = true →
    ((stationAt s.store i).claimedBy = none ∨ (stationAt s.store i).claimedBy = some v) →
    let old := (vanAt s.store v).claim.map Claim.station
    let due := heldAt (now + s.settings.claimDuration)
    Completes (.vanClaim q) 11#8 q s
      { outcome := .ok
        result := encStation (some i) ++ encClock due ++ encFlag (decide (old = some i)) ++
          encStation (if old = some i then none else old) } []
      (fun t => ClaimSet s.store t v i due old)) ∧
  (∀ (q : Request) (s : State) (v : Nat) (c : Claim), Takes 12#8 q s → Crewed s.store q v →
    (vanAt s.store v).load = none → (vanAt s.store v).claim = some c →
    Completes (.vanReleaseClaim q) 12#8 q s
      { outcome := .ok, result := encStation (some c.station) } []
      (fun t => t = claimCleared s.store v c s.store.timer.deadlines)) ∧
  (∀ (hub : HubInput) (s : State) (v : Nat) (c : Claim), Expires (.claimExpiry v) hub s →
    (vanAt s.store v).claim = some c →
    Lapses (.claimExpiry hub) hub s [.claimLapsed v c.station c.expiry]
      (fun t => t = claimCleared s.store v c s.store.timer.deadlines.tail))

/-- R123, R124, R126 (layout: log entry 13): a VAN_LOAD that passes every check opens the dock's latch for the van
and makes the bike LOADING; a LOAD_WINDOW expiry locks it in again. -/
def Obligations.LoadsBeginAndLapse : Prop :=
  (∀ (q : Request) (s : State) (v d b now : Nat), Takes 13#8 q s → Crewed s.store q v → d = param q 8 2 →
    d < 1024 → s.store.timer.clock = some now →
    ((dockAt s.store d).service = .inService ∨ (dockAt s.store d).service = .outOfService) →
    claimsDock s.store v d = true → (vanAt s.store v).load = none → 0 < freePlaces (vanAt s.store v) →
    (dockAt s.store d).content = .bike b → (bikeAt s.store b).state = .docked →
    (bikeAt s.store b).heldFor = none →
    let due := heldAt (now + s.settings.releaseWindow)
    CompletesAt (.vanLoad q) 13#8 q s
      { outcome := .ok
        result := encDock (some d) ++ encBike (some b) ++ encHandle (bikeAt s.store b).fault.ticket ++
          encClock due } []
      (stationAt s.store) (stationsOfBike s.store b ++ stationsOfDock s.store d)
      (fun t => t =
        { putVan
            (putDock (putBike s.store b { bikeAt s.store b with state := .loading }) d
              { dockAt s.store d with latch := .openForVan v })
            v { vanAt s.store v with load := some d } with
          fleet.stations := t.fleet.stations
          timer.deadlines := insertEntry ⟨.loadWindow v, due⟩ s.store.timer.deadlines })) ∧
  (∀ (hub : HubInput) (s : State) (v d b : Nat), Expires (.loadWindow v) hub s →
    (vanAt s.store v).load = some d → (dockAt s.store d).content = .bike b →
    LapsesAt (.loadWindowExpiry hub) hub s [.loadLapsed v d b] (stationAt s.store)
      (stationsOfBike s.store b ++ stationsOfDock s.store d)
      (fun t => t =
        { putVan
            (putDock (putBike s.store b { bikeAt s.store b with state := .docked }) d
              { dockAt s.store d with latch := .latched })
            v { vanAt s.store v with load := none } with
          fleet.stations := t.fleet.stations
          timer.deadlines := s.store.timer.deadlines.tail }))

/-- R104, R97, R110, R130 (layouts: log entry 13): WORKSHOP_DROP takes a bike out of the manifest into the workshop,
its ticket with it; WORKSHOP_PICKUP puts one at the tail of the manifest. -/
def Obligations.WorkshopTakesAndGives : Prop :=
  (∀ (q : Request) (s : State) (v b : Nat), Takes 14#8 q s → Crewed s.store q v → b = param q 8 2 →
    b < 2048 → b ∈ (vanAt s.store v).manifest →
    let rest := (vanAt s.store v).manifest.filter (· ≠ b)
    let u := ticketIn
      (putBike (putVan s.store v { vanAt s.store v with manifest := rest }) b
        { bikeAt s.store b with state := .workshop, place := none }) b .inWorkshop
    CompletesAt (.workshopDrop q) 14#8 q s
      { outcome := .ok
        result := encBike (some b) ++ encHandle (bikeAt s.store b).fault.ticket ++ le 1 rest.length } []
      (stationAt s.store) (stationsOfBike s.store b)
      (fun t => t = { u with fleet.stations := t.fleet.stations })) ∧
  (∀ (q : Request) (s : State) (v b : Nat), Takes 15#8 q s → Crewed s.store q v → b = param q 8 2 →
    b < 2048 → (bikeAt s.store b).state = .workshop → blocked (bikeAt s.store b).fault = false →
    0 < freePlaces (vanAt s.store v) →
    let l := (vanAt s.store v).manifest ++ [b]
    let u := putBike (putVan s.store v { vanAt s.store v with manifest := l }) b
      { bikeAt s.store b with state := .inVan, place := some (.van v) }
    CompletesAt (.workshopPickup q) 15#8 q s
      { outcome := .ok, result := le 1 l.length ++ l.flatMap (fun b => encBike (some b)) } []
      (stationAt s.store) (stationsOfBike s.store b)
      (fun t => t = { u with fleet.stations := t.fleet.stations }))

/-! ## The clock, the deadline list and the trend -/

/-- R145, R135, R149, R142, R143 (layout: log entry 13): TIME_SET sets the clock and adds a TREND_EPOCH entry where the
list holds none, every other entry keeping its due time and its place; a tick adds 1 to a set clock, up to its
greatest value, and touches nothing else; a read of CLOCK low returns the low half and captures the high half, and
with a tick between it and a read of CLOCK high the two reads give one clock value. -/
def Obligations.ClockIsSetTicksAndIsRead : Prop :=
  (∀ (q : Request) (s : State), Takes 19#8 q s →
     let new := param q 0 4
     let due (l : List Entry) : Nat := l.countP (fun e => decide (e.due ≤ new))
     (∀ epoch, dueOf s.store .trendEpoch = some epoch →
       Completes (.timeSet q) 19#8 q s
         { outcome := .ok
           result := encOptClock s.store.timer.clock ++ encClock new ++
             le 2 (due s.store.timer.deadlines) ++ encClock epoch ++ encFlag false } []
         (fun t => t = { s.store with timer.clock := some new })) ∧
     (dueOf s.store .trendEpoch = none →
       let epoch := heldAt (new + s.settings.trendPeriod)
       let l := insertEntry ⟨.trendEpoch, epoch⟩ s.store.timer.deadlines
       Completes (.timeSet q) 19#8 q s
         { outcome := .ok
           result := encOptClock s.store.timer.clock ++ encClock new ++ le 2 (due l) ++ encClock epoch ++
             encFlag true } []
         (fun t => t = { s.store with timer.clock := some new, timer.deadlines := l }))) ∧
  (∀ s : State, exec .tick s =
    .next { s with store.timer.clock := s.store.timer.clock.map (fun t => min (t + 1) 4294967295) }) ∧
  (∀ s : State, s.engine.resetAsserted = false → ∃ t, exec .clockLowRead s = .next t ∧
    t = { s with store.timer.captured := t.store.timer.captured, port.dataOut := t.port.dataOut } ∧
    (s.store.timer.clock = none → t.port.dataOut = 0#16 ∧ t.store.timer.captured = 0#16) ∧
    ∀ now, s.store.timer.clock = some now → now ≤ 4294967295 →
      t.port.dataOut.toNat = now % 65536 ∧ t.store.timer.captured.toNat = now / 65536 ∧
      ∀ u, exec .tick t = .next u → t.port.dataOut.toNat + 65536 * (controlWord u 8#4).toNat = now)

/-- R147: adding an entry to a list in order places it behind every entry due no later and ahead of every entry due
later; removing one by its kind and owner keeps the order of the others. -/
def Obligations.DeadlinesKeepTheirOrder : Prop :=
  (∀ (e : Entry) (l : List Entry), ascending l = true →
    insertEntry e l =
      l.filter (fun x => decide (x.due ≤ e.due)) ++ e :: l.filter (fun x => decide (e.due < x.due))) ∧
  (∀ (what : Deadline) (l : List Entry), ascending l = true →
    ascending (dropEntry what l) = true ∧ (dropEntry what l).Sublist l ∧
      ∀ e, e ∈ dropEntry what l ↔ e ∈ l ∧ e.what ≠ what) ∧
  (∀ (old new : Nat) (l : List Entry),
    (reownHold old new l).map Entry.due = l.map Entry.due ∧
      ∀ j : Nat, (reownHold old new l)[j]?.map Entry.what =
        l[j]?.map (fun e => if e.what = .holdExpiry old then .holdExpiry new else e.what))

/-- R134, R133, R138, R139: a TREND_EPOCH expiry halves the net flow of every defined station, sets its direction,
makes its comparison, and adds the next entry; nothing else changes. -/
def Obligations.TrendEpochDecays : Prop :=
  ∀ (hub : HubInput) (s : State) (now : Nat), Expires .trendEpoch hub s → s.store.timer.clock = some now →
    Lapses (.trendEpoch hub) hub s
      ((List.range 32).filterMap (fun i =>
        if (stationAt s.store i).isDefined = true then wordNotice (some now) i (decayed (stationAt s.store i))
        else none))
      (fun t =>
        (∀ i, stationAt t i =
          if i < 32 ∧ (stationAt s.store i).isDefined = true then reworded (decayed (stationAt s.store i))
          else stationAt s.store i) ∧
        t = { s.store with
          fleet.stations := t.fleet.stations
          timer.deadlines := insertEntry ⟨.trendEpoch, heldAt (now + s.settings.trendPeriod)⟩
            s.store.timer.deadlines.tail })

/-! ## Rings and the arbiter -/

/-- R160, R161, R163, R170, R171: a request whose descriptor fails a check is answered with the check's refusal and
changes no record; so is one with a code that the part does not have. A grant that finds the descriptor taken
back ends without work; that the ring is then OFF under an engine STOP is the model's choice (log entry 20). -/
def Obligations.GrantsThatCarryOutNoRule : Prop :=
  (∀ (c : Instr) (code : Byte) (q : Request) (s : State) (o : OutcomeCode), requestOf c = some (code, q) →
    granted q s = true → owned q = true → CleanBus q.hub → descriptorCheck s code q = some o →
    Completes c code q s { outcome := o } [] (fun t => t = s.store)) ∧
  (∀ (code : Byte) (q : Request) (s : State), granted q s = true → owned q = true → CleanBus q.hub →
    (s.settings.checking = true → descriptorSum code q ≠ 255 →
      Completes (.unknownRequestCode code q) code q s { outcome := .descCheck } [] (fun t => t = s.store)) ∧
    (s.settings.checking = false ∨ descriptorSum code q = 255 → codeEntry code = none →
      Completes (.unknownRequestCode code q) code q s { outcome := .badRequest } []
        (fun t => t = s.store))) ∧
  (∀ (code : Byte) (q : Request) (s : State), granted q s = true → owned q = false → CleanBus q.hub →
    ∃ t, exec (.grantWithoutWork code q) s = .next t ∧ t.store = s.store ∧
      ringAt t q.ring.val =
        { ringAt s q.ring.val with
          state := if (ringAt s q.ring.val).stopPending || q.stopRing || q.stopEngine then .off else .idle
          stopPending := false } ∧
      (∀ k, k ≠ q.ring.val → ringAt t k = ringAt s k) ∧
      boardOf t =
        ⟨memWrite (hubStores s.hub.mem q.hub.writes) (headAddress s q.ring.val) (descriptorBytes code q),
          s.rings.noticeIndex, s.port.events⟩ ∧
      t.engine = { s.engine with stopPending := q.stopEngine } ∧ t.bulk = s.bulk ∧
      t.rings.reserved = s.rings.reserved ∧ Kept s t ∧ Counted (.ring q.ring.val) s t)

/-- R160, R165, R182: what a bus error does. One on the read or on the write-back of the descriptor makes the ring
FAILED, or OFF where its stop-pending flag is set or an engine STOP is pending, and the request is not carried
out. One on the write of its response, which is the third access of every request but TARIFF_LOAD and a taken BULK_CARD_LOAD, comes after the
work: the records are those that it leaves on a clean bus, and RESPONSE_WRITTEN is not set. What the accesses are, and
that the ring is OFF under an engine STOP too, is the model's choice (log entries 7 and 20). -/
def Obligations.BusErrorsFailTheRing : Prop :=
  ∀ (c : Instr) (code : Byte) (q : Request) (s : State), requestOf c = some (code, q) → granted q s = true →
    let n := q.ring.val
    let failed (t : State) : Prop :=
      (ringAt t n).state =
          (if (ringAt s n).stopPending || q.stopRing || q.stopEngine then .off else .failed) ∧
        (ringAt t n).stopPending = false ∧ (ringAt t n).responseIndex = (ringAt s n).responseIndex ∧
        (∀ k, k ≠ n → ringAt t k = ringAt s k) ∧ t.settings = s.settings ∧
        t.port.events.getLsbD 6 = true ∧ t.port.events.getLsbD n = s.port.events.getLsbD n
    (∀ k rest, NoReset rest →
      (q.hub.answers = .error k :: rest ∨ (owned q = true ∧ q.hub.answers = .ok :: .error k :: rest)) →
      ∃ t, exec c s = .next t ∧ failed t ∧ t.store = s.store ∧ (ringAt t n).head = (ringAt s n).head ∧
        t.bulk = s.bulk ∧ t.port.events = s.port.events ||| ringFailed) ∧
    (∀ c' k rest t', NoReset rest → code ≠ 20#8 → code ≠ 31#8 → owned q = true →
      q.hub.answers = .ok :: .ok :: .error k :: rest →
      requestOf c' = some (code, { q with hub.answers := [] }) → exec c' s = .next t' →
      ∃ t, exec c s = .next t ∧ failed t ∧ t.store = t'.store ∧ t.bulk = s.bulk ∧
        (ringAt t n).head = advance (ringAt s n).request (ringAt s n).head)

/-- R154, R156, R158, R159: the ring commands. START acts on an OFF ring of a RUNNING engine, KICK on an IDLE or
BLOCKED ring, RESUME on a BLOCKED or FAILED one, each by a look; STOP makes a ring OFF, or sets its stop-pending
flag while its request is in hand. In every other case the ring stands. Nothing else changes. -/
def Obligations.RingCommandsAct : Prop :=
  (∀ (n : Nat) (hub : HubInput) (s : State), CleanBus hub →
    let mem := hubStores s.hub.mem hub.writes
    let r := ringAt s n
    (∃ t, exec (.ringStart n hub) s = .next t ∧ BesideRing mem n s t ∧
      ringAt t n =
        if n < 4 ∧ r.state = .off ∧ s.engine.state = .running then
          ⟨seenState t n, r.stopPending, 0, 0, readAt ⟨0, 0⟩ s.settings.requestRings n,
            readAt ⟨0, 0⟩ s.settings.responseRings n⟩
        else r) ∧
    (∃ t, exec (.kick n hub) s = .next t ∧ BesideRing mem n s t ∧
      ringAt t n =
        if n < 4 ∧ (r.state = .idle ∨ r.state = .blocked) then { r with state := seenState t n } else r) ∧
    (∃ t, exec (.resume n hub) s = .next t ∧ BesideRing mem n s t ∧
      ringAt t n =
        if n < 4 ∧ (r.state = .blocked ∨ r.state = .failed) then { r with state := seenState t n }
        else r)) ∧
  (∀ (n : Nat) (s : State),
    let r := ringAt s n
    ∃ t, exec (.ringStop n) s = .next t ∧ BesideRing s.hub.mem n s t ∧
      ringAt t n =
        if n < 4 ∧ r.state ≠ .off then
          if r.state = .ready ∧ s.rings.inHand = some n then { r with stopPending := true }
          else { r with state := .off, stopPending := false }
        else r)

/-- R167, R168, R169: no grant is made unless the engine is RUNNING with no STOP pending and some requester
requests; the choice goes to the highest requester with a count of 8, and where none has it to the highest
requester. -/
def Obligations.ArbiterChoosesByPriority : Prop :=
  ∀ s : State,
    (arbiterChoice s = none ↔
      ¬ (s.engine.state = .running ∧ s.engine.stopPending = false) ∨
        ∀ r ∈ requesters, requesting s r = false) ∧
    ∀ g, arbiterChoice s = some g →
      g ∈ requesters ∧ requesting s g = true ∧
      (passOverOf s g = 8 →
        ∀ r ∈ requesters, requesting s r = true → passOverOf s r = 8 → g.priority ≤ r.priority) ∧
      (passOverOf s g ≠ 8 →
        ∀ r ∈ requesters, requesting s r = true → passOverOf s r ≠ 8 ∧ g.priority ≤ r.priority)

/-! ## The control port -/

/-- R181: EVENT, EVENT_ENABLE and the interrupt line, with the reset pin released; while it is asserted no access is
answered (ResetPinClears). -/
def Obligations.EventsAndInterrupt : Prop :=
  (∀ (s : State) (v : BitVec 16), s.engine.resetAsserted = false → ∃ t, exec (.eventClear v) s = .next t ∧
    (∀ i < 10, t.port.events.getLsbD i = (s.port.events.getLsbD i && !v.getLsbD i)) ∧
    t = { s with port.events := t.port.events }) ∧
  (∀ (s : State) (v : BitVec 16), s.engine.resetAsserted = false → ∃ t, exec (.eventEnableWrite v) s = .next t ∧
    (∀ i < 10, t.port.enables.getLsbD i = v.getLsbD i) ∧ t = { s with port.enables := t.port.enables }) ∧
  (∀ s : State, (∀ i, (controlWord s 5#4).getLsbD i = s.port.events.getLsbD i) ∧
    ∀ i, (controlWord s 6#4).getLsbD i = s.port.enables.getLsbD i) ∧
  (∀ s : State, interruptActive s = true ↔
    ∃ i < 10, s.port.events.getLsbD i = true ∧ s.port.enables.getLsbD i = true) ∧
  -- flags are set whatever their enables; a clear and an event in either order
  (∀ (s : State) (v : BitVec 16) (i : Nat), s.engine.resetAsserted = false → i < 10 → v.getLsbD i = true →
    (raiseEvent s (eventFlag i)).port.events.getLsbD i = true ∧
    (raiseEvent s (eventFlag i)).port.enables = s.port.enables ∧
    (∀ t, exec (.eventClear v) s = .next t →
      (raiseEvent t (eventFlag i)).port.events.getLsbD i = true ∧
      (s.port.enables.getLsbD i = true → interruptActive (raiseEvent t (eventFlag i)) = true)) ∧
    (∀ t, exec (.eventClear v) (raiseEvent s (eventFlag i)) = .next t → t.port.events.getLsbD i = false))

/-- R172, R173, R174 step 1, R178: a write to the index port selects a control word; a write to the data port acts on
the word selected: an engine command or a half of the setup address in the states that take it, a ring command by
its fields, EVENT, EVENT_ENABLE, and nothing for the other words. INIT_FORMAT and INIT_KEEP are taken in STOPPED,
INIT_KEEP only with the store-formatted marker set, and STOP in RUNNING with no STOP pending; a STOP taken with no
work in hand and no load in flight passes at once to its end (that the rings become OFF there too: log entry 20). All
this with the reset pin released. -/
def Obligations.PortWritesAct : Prop :=
  (∀ (v : BitVec 16) (s : State), s.engine.resetAsserted = false → ∃ t, exec (.indexPortWrite v) s = .next t ∧
    t.port.index.toNat = v.toNat % 16 ∧ t = { s with port.index := t.port.index }) ∧
  (∀ (v : BitVec 16) (hub : HubInput) (s : State), s.engine.resetAsserted = false → NoReset hub.answers →
    s.port.index = 0#4 → v = 3#16 → HaltsAtOnce s →
    ∃ t, exec (.controlWordWrite v hub) s = .next t ∧ Halted (hubStores s.hub.mem hub.writes) s t) ∧
  (∀ (v : BitVec 16) (hub : HubInput) (s : State), s.engine.resetAsserted = false → NoReset hub.answers →
    s.port.index ≠ 3#4 → ¬ (s.port.index = 0#4 ∧ v = 3#16 ∧ HaltsAtOnce s) →
    let k := s.port.index.toNat
    ∃ t, exec (.controlWordWrite v hub) s = .next t ∧
      BesidePort (hubStores s.hub.mem hub.writes) s t ∧ t.store = s.store ∧ t.settings = s.settings ∧
      t.rings.notice = s.rings.notice ∧ t.rings.noticeIndex = s.rings.noticeIndex ∧
      t.port.index = s.port.index ∧
      t.engine = (if k = 0 then engineTaken s.engine v.toNat else s.engine) ∧
      t.port.events =
        (if k = 0 then engineEvents s v.toNat
        else if k = 5 then s.port.events &&& ~~~(v.setWidth 10) else s.port.events) ∧
      t.port.enables = (if k = 6 then v.setWidth 10 else s.port.enables) ∧
      t.port.setupAddress.toNat % 65536 =
        (if k = 1 ∧ s.engine.state = .stopped then v.toNat else s.port.setupAddress.toNat % 65536) ∧
      t.port.setupAddress.toNat / 65536 =
        (if k = 2 ∧ s.engine.state = .stopped then v.toNat else s.port.setupAddress.toNat / 65536)) ∧
  (∀ (v : BitVec 16) (hub : HubInput) (s : State), s.engine.resetAsserted = false → s.port.index = 3#4 →
    let n := v.toNat % 8
    let command := v.toNat / 16 % 16
    (command = 1 → exec (.controlWordWrite v hub) s = exec (.ringStart n hub) s) ∧
    (command = 2 → exec (.controlWordWrite v hub) s = exec (.kick n hub) s) ∧
    (command = 3 → exec (.controlWordWrite v hub) s = exec (.resume n hub) s) ∧
    (command = 4 → s.rings.inHand = none → s.hub.answers = [] → hub.writes = [] → NoReset hub.answers →
      exec (.controlWordWrite v hub) s = exec (.ringStop n) s) ∧
    (command = 0 ∨ 4 < command → NoReset hub.answers → ∃ t, exec (.controlWordWrite v hub) s = .next t ∧
      BesideRing (hubStores s.hub.mem hub.writes) n s t ∧ ringAt t n = ringAt s n)) ∧
  (∀ s : State, s.engine.resetAsserted = false →
     exec .initFormat s = .next { s with engine := formatTaken s.engine } ∧
     exec .initKeep s =
       .next { s with engine := keepTaken s.engine, port.events := keepEvents s } ∧
     (HaltsAtOnce s → ∃ t, exec .engineStop s = .next t ∧ Halted s.hub.mem s t) ∧
     (¬ HaltsAtOnce s → exec .engineStop s = .next { s with engine := stopTaken s.engine }) ∧
     (s.engine.state = .stopped → s.engine.formatted = false →
       (keepTaken s.engine).state = .stopped ∧ (keepTaken s.engine).lastInit = .unformatted ∧
         (keepEvents s).getLsbD 8 = true) ∧
     (s.engine.state ≠ .stopped → formatTaken s.engine = s.engine ∧ keepTaken s.engine = s.engine) ∧
     (s.engine.state ≠ .running → stopTaken s.engine = s.engine))

/-- R179: the reset pin. While it stays asserted, as a reset in the middle of a command leaves it (log entry 8), no
access to the control port is answered. That it leaves the records, the settings and the ring places as they stand is
the model's choice (log entry 5): the rule calls them unreachable or not in force. -/
def Obligations.ResetPinClears : Prop :=
  (∀ s : State, ∃ t, exec .resetPin s = .next t ∧ PinReset false s.hub.mem s t ∧
    t.store = { s.store with timer.clock := none, timer.captured := 0#16 }) ∧
  (∀ (s : State) (v : BitVec 16), s.engine.resetAsserted = true →
    (∀ c ∈ [Instr.initFormat, .initKeep, .indexPortWrite v, .clockLowRead, .eventClear v, .eventEnableWrite v],
      exec c s = .next s) ∧
    (∀ hub, NoReset hub.answers → ∃ t, exec (.controlWordWrite v hub) s = .next t ∧
      BesidePort (hubStores s.hub.mem hub.writes) s t ∧ t.engine = s.engine ∧ t.port = s.port ∧
      t.store = s.store ∧ t.settings = s.settings ∧ t.rings.notice = s.rings.notice ∧
      t.rings.noticeIndex = s.rings.noticeIndex))

/-- R174, R175, R176, R177, R154: the end of an INIT. A setup block that is read gives the settings, clamped; the
tables are formatted or kept; the notice ring is placed; the engine is RUNNING. A bus error leaves the settings,
the records, the marker and every index as they were. -/
def Obligations.InitCompletes : Prop :=
  (∀ (hub : HubInput) (s : State) (kind : InitKind), s.engine.state = .initializing kind →
    let mem := hubStores s.hub.mem hub.writes
    let set := settingsOf (memRead mem s.port.setupAddress.toNat 128)
    (CleanBus hub → ∃ t, exec (.initCompletion hub) s = .next t ∧ BesidePort mem s t ∧
      t.settings = set ∧ t.rings.notice = set.noticeRing ∧ t.rings.noticeIndex = 0 ∧
      t.engine = { s.engine with
        state := .running, formatted := decide (kind = .format) || s.engine.formatted, lastInit := .ok } ∧
      t.port = { s.port with events := s.port.events ||| initDone } ∧
      (kind = .keep → t.store = s.store) ∧ (kind = .format → Formatted s.store t.store)) ∧
    (∀ k rest, NoReset rest → hub.answers = .error k :: rest → ∃ t, exec (.initCompletion hub) s = .next t ∧
      BesidePort mem s t ∧ t.settings = s.settings ∧ t.rings.notice = s.rings.notice ∧
      t.rings.noticeIndex = s.rings.noticeIndex ∧
      t.engine = { s.engine with state := .stopped, lastInit := .busError } ∧
      t.port = { s.port with events := s.port.events ||| initFailed } ∧ t.store = s.store)) ∧
  (∀ block : Nat, SettingsInRange (settingsOf block) ∧
    (flagBit block 65 3 = false → (settingsOf block).overduePoint = 86400) ∧
    (flagBit block 65 3 = true → field block 76 4 = 200000 → (settingsOf block).overduePoint = 172800) ∧
    (flagBit block 65 4 = false → (settingsOf block).lostPoint = 259200) ∧
    (flagBit block 65 4 = true → field block 80 4 = 100000 →
      (settingsOf block).overduePoint = 172800 → (settingsOf block).lostPoint = 176400)) ∧
  ringSize 100 = 64

/-- R178, R48, R164: the end of a STOP. A load in flight ends with outcome STOPPED, its reserved slot written with
the tallies as they stand; every request ring is OFF with its indexes kept; every pass-over count is 0; the
engine is STOPPED. That a write of the reserved slot that ends in a bus error stores nothing is the model's choice (log
entry 7). -/
def Obligations.StopCompletes : Prop :=
  ∀ (hub : HubInput) (s : State), s.engine.state = .running → s.engine.stopPending = true →
    let mem := hubStores s.hub.mem hub.writes
    let stopped (t : State) : Prop :=
      t.engine = { s.engine with state := .stopped, stopPending := false } ∧ RingsOff s t ∧
        t.store = s.store ∧ t.settings = s.settings ∧ t.bulk = none ∧
        t.rings.notice = s.rings.notice ∧ t.rings.noticeIndex = s.rings.noticeIndex ∧
        (∀ r ∈ requesters, passOverOf t r = 0) ∧ t.pending = s.pending ∧
        t.port = { s.port with events := t.port.events }
    (s.bulk = none → NoReset hub.answers → ∃ t, exec (.stopCompletion hub) s = .next t ∧ stopped t ∧
      t.hub.mem = mem ∧
      t.rings.reserved = s.rings.reserved ∧ t.port.events = s.port.events ||| stopDone) ∧
    (∀ b slot, s.bulk = some b → s.rings.reserved = some slot →
      (CleanBus hub → ∃ t, exec (.stopCompletion hub) s = .next t ∧ stopped t ∧
        t.rings.reserved = none ∧
        t.hub.mem = memWrite mem (slotAddress (ringAt s 3).response slot.index)
          (responseBytes 31#8 slot.tag { outcome := .stopped, result := tallies b } false false) ∧
        t.port.events = s.port.events ||| responseWritten 3 ||| stopDone) ∧
      (∀ k rest, NoReset rest → hub.answers = .error k :: rest → ∃ t, exec (.stopCompletion hub) s = .next t ∧
        stopped t ∧ t.rings.reserved = none ∧ t.hub.mem = mem ∧
        t.port.events = s.port.events ||| ringFailed ||| stopDone))

/-- R179: a reset taken in the middle of a work ends it where it stands. One at the read or at the write-back of a
descriptor leaves the descriptor handed to the part; one at the next access, whatever the request, leaves its own
flag cleared and no response; one in an INIT, in the end of a STOP or in a card image writes nothing. That the pin then
stays asserted until RESET_PIN, and that each access is made whole or not at all, is the model's choice (log entries
7 and 8). -/
def Obligations.ResetEndsTheWork : Prop :=
  (∀ (c : Instr) (code : Byte) (q : Request) (s : State), requestOf c = some (code, q) → granted q s = true →
    let ends (mem : Table Byte) : Prop := ∃ t, exec c s = .next t ∧ PinReset true mem s t
    let handed :=
      memWrite (hubStores s.hub.mem q.hub.writes) (headAddress s q.ring.val) (descriptorBytes code q)
    (∀ d rest, q.hub.answers = .reset d :: rest → ends handed) ∧
    (∀ d rest, owned q = true → q.hub.answers = .ok :: .reset d :: rest → ends handed) ∧
    (∀ rest, owned q = true → q.hub.answers = .ok :: .ok :: .reset 0 :: rest → ends (takenMem code q s))) ∧
  (∀ (hub : HubInput) (s : State) (d : Nat) (rest : List BusAnswer), hub.answers = .reset d :: rest →
    let ends (c : Instr) : Prop :=
      ∃ t, exec c s = .next t ∧ PinReset true (hubStores s.hub.mem hub.writes) s t
    (∀ kind, s.engine.state = .initializing kind → ends (.initCompletion hub)) ∧
    (s.engine.state = .running → s.engine.stopPending = true → ends (.stopCompletion hub)) ∧
    (arbiterChoice s = some .bulk → ends (.bulkCardImage hub)))
end

