-- ==== Sys2Proof/Laws/Table.lean ====
section
/-! SUPPORT. The laws of a sparse table: a read after a write, and the one form kept by a write. -/

namespace Sys2Proof.Laws

open Sys2Proof Sys2Proof.Machine

variable {α : Type}

@[simp] theorem readAt_nil (d : α) (k : Nat) : readAt d [] k = d := rfl

theorem readAt_unlist_same (d : α) (t : Table α) (k : Nat) : readAt d (unlist t k) k = d := by
  induction t with
  | nil => rfl
  | cons p t ih =>
    obtain ⟨j, v⟩ := p
    by_cases h : j = k
    · simpa [unlist, h] using ih
    · simpa [unlist, h, readAt] using ih

theorem readAt_unlist_other (d : α) (t : Table α) {k j : Nat} (h : j ≠ k) :
    readAt d (unlist t k) j = readAt d t j := by
  induction t with
  | nil => rfl
  | cons p t ih =>
    obtain ⟨i, v⟩ := p
    by_cases hi : i = k
    · subst hi
      simpa [unlist, readAt, Ne.symm h] using ih
    · by_cases hj : i = j
      · subst hj; simp [unlist, readAt, h]
      · simpa [unlist, readAt, hi, hj] using ih

theorem readAt_list_same (d : α) (t : Table α) (k : Nat) (v : α) : readAt d (list t k v) k = v := by
  induction t with
  | nil => simp [list, readAt]
  | cons p t ih =>
    obtain ⟨j, u⟩ := p
    by_cases h : k < j
    · simp [list, readAt, h]
    · by_cases hj : j = k
      · simp [list, readAt, hj]
      · simpa [list, readAt, h, hj] using ih

theorem readAt_list_other (d : α) (t : Table α) {k j : Nat} (v : α) (h : j ≠ k) :
    readAt d (list t k v) j = readAt d t j := by
  induction t with
  | nil => simp [list, readAt, Ne.symm h]
  | cons p t ih =>
    obtain ⟨i, u⟩ := p
    by_cases hk : k < i
    · simp [list, readAt, hk, Ne.symm h]
    · by_cases hi : i = k
      · subst hi
        simp [list, readAt, Ne.symm h]
      · by_cases hj : i = j
        · subst hj; simp [list, readAt, hk, h]
        · simpa [list, readAt, hk, hi, hj] using ih

variable [DecidableEq α]

@[simp] theorem readAt_writeAt_same (d : α) (t : Table α) (k : Nat) (v : α) :
    readAt d (writeAt d t k v) k = v := by
  by_cases h : v = d
  · simp [writeAt, h, readAt_unlist_same]
  · simp [writeAt, h, readAt_list_same]

theorem readAt_writeAt_other (d : α) (t : Table α) {k j : Nat} (v : α) (h : j ≠ k) :
    readAt d (writeAt d t k v) j = readAt d t j := by
  by_cases hv : v = d
  · simp [writeAt, hv, readAt_unlist_other d t h]
  · simp [writeAt, hv, readAt_list_other d t v h]

/-- What a write leaves at every index. -/
theorem readAt_writeAt (d : α) (t : Table α) (k j : Nat) (v : α) :
    readAt d (writeAt d t k v) j = if j = k then v else readAt d t j := by
  by_cases h : j = k
  · simp [h]
  · simp [h, readAt_writeAt_other d t v h]

theorem canonicalFrom_weaken (d : α) (t : Table α) {lo hi : Nat} (h : lo ≤ hi)
    (ht : canonicalFrom d hi t = true) : canonicalFrom d lo t = true := by
  cases t with
  | nil => rfl
  | cons p t =>
    obtain ⟨j, v⟩ := p
    simp only [canonicalFrom, Bool.and_eq_true, decide_eq_true_eq] at ht ⊢
    exact ⟨⟨by omega, ht.1.2⟩, ht.2⟩

theorem canonicalFrom_unlist (d : α) (t : Table α) (k lo : Nat)
    (ht : canonicalFrom d lo t = true) : canonicalFrom d lo (unlist t k) = true := by
  induction t generalizing lo with
  | nil => rfl
  | cons p t ih =>
    obtain ⟨j, v⟩ := p
    simp only [canonicalFrom, Bool.and_eq_true, decide_eq_true_eq] at ht
    by_cases h : j = k
    · simp only [unlist, h, if_true]
      exact canonicalFrom_weaken d _ (by omega) (ih _ ht.2)
    · simp only [unlist, h, if_false, canonicalFrom, Bool.and_eq_true, decide_eq_true_eq]
      exact ⟨ht.1, ih _ ht.2⟩

theorem canonicalFrom_list (d : α) (t : Table α) (k lo : Nat) (v : α) (hv : v ≠ d) (hk : lo ≤ k)
    (ht : canonicalFrom d lo t = true) : canonicalFrom d lo (list t k v) = true := by
  induction t generalizing lo with
  | nil => simp [list, canonicalFrom, hv, hk]
  | cons p t ih =>
    obtain ⟨j, u⟩ := p
    simp only [canonicalFrom, Bool.and_eq_true, decide_eq_true_eq] at ht
    by_cases h : k < j
    · simp only [list, h, if_true, canonicalFrom, Bool.and_eq_true, decide_eq_true_eq]
      exact ⟨⟨hk, hv⟩, ⟨by omega, ht.1.2⟩, ht.2⟩
    · by_cases hj : j = k
      · subst hj
        simp only [list, h, if_false, if_true, canonicalFrom, Bool.and_eq_true, decide_eq_true_eq]
        exact ⟨⟨hk, hv⟩, ht.2⟩
      · simp only [list, h, hj, if_false, canonicalFrom, Bool.and_eq_true, decide_eq_true_eq]
        exact ⟨ht.1, ih _ (by omega) ht.2⟩

/-- A write keeps the one form of a table. -/
theorem canonical_writeAt (d : α) (t : Table α) (k : Nat) (v : α) (ht : canonical d t = true) :
    canonical d (writeAt d t k v) = true := by
  by_cases hv : v = d
  · simpa [writeAt, hv, canonical] using canonicalFrom_unlist d t k 0 ht
  · simpa [writeAt, hv, canonical] using canonicalFrom_list d t k 0 v hv (Nat.zero_le k) ht

/-- Two tables in their one form that read alike are equal. -/
theorem canonicalFrom_ext (d : α) (t u : Table α) (lo : Nat) (ht : canonicalFrom d lo t = true)
    (hu : canonicalFrom d lo u = true) (h : ∀ k, readAt d t k = readAt d u k) : t = u := by
  have below : ∀ (x : Table α) (lo : Nat), canonicalFrom d lo x = true →
      ∀ k, k < lo → readAt d x k = d := by
    intro x
    induction x with
    | nil => intros; rfl
    | cons p x ih =>
      obtain ⟨j, v⟩ := p
      intro lo hx k hk
      simp only [canonicalFrom, Bool.and_eq_true, decide_eq_true_eq] at hx
      have : j ≠ k := by omega
      simpa [readAt, this] using ih _ hx.2 k (by omega)
  induction t generalizing lo u with
  | nil =>
    cases u with
    | nil => rfl
    | cons p u =>
      obtain ⟨j, v⟩ := p
      simp only [canonicalFrom, Bool.and_eq_true, decide_eq_true_eq] at hu
      exact absurd (by simpa [readAt] using (h j).symm) hu.1.2
  | cons p t ih =>
    obtain ⟨j, v⟩ := p
    simp only [canonicalFrom, Bool.and_eq_true, decide_eq_true_eq] at ht
    cases u with
    | nil => exact absurd (by simpa [readAt] using h j) ht.1.2
    | cons p' u =>
      obtain ⟨j', v'⟩ := p'
      simp only [canonicalFrom, Bool.and_eq_true, decide_eq_true_eq] at hu
      have hj : j = j' := by
        rcases Nat.lt_trichotomy j j' with hl | he | hg
        · have := h j
          rw [below ((j', v') :: u) j' (by simp [canonicalFrom, hu.1.2, hu.2]) j hl] at this
          exact absurd (by simpa [readAt] using this) ht.1.2
        · exact he
        · have := h j'
          rw [below ((j, v) :: t) j (by simp [canonicalFrom, ht.1.2, ht.2]) j' hg] at this
          exact absurd (by simpa [readAt] using this.symm) hu.1.2
      subst hj
      have hv : v = v' := by simpa [readAt] using h j
      subst hv
      congr 1
      refine ih u (j + 1) ht.2 hu.2 (fun k => ?_)
      by_cases hk : j = k
      · subst hk
        rw [below t (j + 1) ht.2 j (by omega), below u (j + 1) hu.2 j (by omega)]
      · simpa [readAt, hk] using h k

/-- A table is in its one form, so equal tables are equal data. -/
theorem canonical_ext (d : α) {t u : Table α} (ht : canonical d t = true) (hu : canonical d u = true)
    (h : ∀ k, readAt d t k = readAt d u k) : t = u :=
  canonicalFrom_ext d t u 0 ht hu h

end Sys2Proof.Laws
end

