-- ==== Sys2Proof/Laws/State.lean ====
section
/-! SUPPORT. One lemma per field per update, so that no later proof unfolds a record update. -/

namespace Sys2Proof.Laws

open Sys2Proof Sys2Proof.Machine

/-! ## Record tables of the store -/

theorem bikeAt_putBike (st : Store) (k j : Nat) (r : Bike) :
    bikeAt (putBike st k r) j = if j = k then r else bikeAt st j :=
  readAt_writeAt _ _ _ _ _

@[simp] theorem bikeAt_putBike_same (st : Store) (k : Nat) (r : Bike) : bikeAt (putBike st k r) k = r :=
  readAt_writeAt_same _ _ _ _

@[simp] theorem dockAt_putBike (st : Store) (k j : Nat) (r : Bike) :
    dockAt (putBike st k r) j = dockAt st j := rfl

@[simp] theorem stationAt_putBike (st : Store) (k j : Nat) (r : Bike) :
    stationAt (putBike st k r) j = stationAt st j := rfl

@[simp] theorem cardAt_putBike (st : Store) (k j : Nat) (r : Bike) :
    cardAt (putBike st k r) j = cardAt st j := rfl

@[simp] theorem chainAt_putBike (st : Store) (k j : Nat) (r : Bike) :
    chainAt (putBike st k r) j = chainAt st j := rfl

@[simp] theorem hireSlotAt_putBike (st : Store) (k j : Nat) (r : Bike) :
    hireSlotAt (putBike st k r) j = hireSlotAt st j := rfl

@[simp] theorem ticketSlotAt_putBike (st : Store) (k j : Nat) (r : Bike) :
    ticketSlotAt (putBike st k r) j = ticketSlotAt st j := rfl

@[simp] theorem vanAt_putBike (st : Store) (k j : Nat) (r : Bike) :
    vanAt (putBike st k r) j = vanAt st j := rfl

@[simp] theorem putBike_timer (st : Store) (k : Nat) (r : Bike) : (putBike st k r).timer = st.timer := rfl

@[simp] theorem putBike_tariff (st : Store) (k : Nat) (r : Bike) : (putBike st k r).tariff = st.tariff := rfl

@[simp] theorem putBike_waiting (st : Store) (k : Nat) (r : Bike) :
    (putBike st k r).faults.waiting = st.faults.waiting := rfl

@[simp] theorem putBike_free (st : Store) (k : Nat) (r : Bike) :
    (putBike st k r).cards.free = st.cards.free := rfl

@[simp] theorem putBike_held (st : Store) (k : Nat) (r : Bike) :
    (putBike st k r).fleet.reservationsHeld = st.fleet.reservationsHeld := rfl

theorem dockAt_putDock (st : Store) (k j : Nat) (r : Dock) :
    dockAt (putDock st k r) j = if j = k then r else dockAt st j :=
  readAt_writeAt _ _ _ _ _

@[simp] theorem dockAt_putDock_same (st : Store) (k : Nat) (r : Dock) : dockAt (putDock st k r) k = r :=
  readAt_writeAt_same _ _ _ _

@[simp] theorem bikeAt_putDock (st : Store) (k j : Nat) (r : Dock) :
    bikeAt (putDock st k r) j = bikeAt st j := rfl

@[simp] theorem stationAt_putDock (st : Store) (k j : Nat) (r : Dock) :
    stationAt (putDock st k r) j = stationAt st j := rfl

@[simp] theorem cardAt_putDock (st : Store) (k j : Nat) (r : Dock) :
    cardAt (putDock st k r) j = cardAt st j := rfl

@[simp] theorem chainAt_putDock (st : Store) (k j : Nat) (r : Dock) :
    chainAt (putDock st k r) j = chainAt st j := rfl

@[simp] theorem hireSlotAt_putDock (st : Store) (k j : Nat) (r : Dock) :
    hireSlotAt (putDock st k r) j = hireSlotAt st j := rfl

@[simp] theorem ticketSlotAt_putDock (st : Store) (k j : Nat) (r : Dock) :
    ticketSlotAt (putDock st k r) j = ticketSlotAt st j := rfl

@[simp] theorem vanAt_putDock (st : Store) (k j : Nat) (r : Dock) :
    vanAt (putDock st k r) j = vanAt st j := rfl

@[simp] theorem putDock_timer (st : Store) (k : Nat) (r : Dock) : (putDock st k r).timer = st.timer := rfl

@[simp] theorem putDock_tariff (st : Store) (k : Nat) (r : Dock) : (putDock st k r).tariff = st.tariff := rfl

@[simp] theorem putDock_waiting (st : Store) (k : Nat) (r : Dock) :
    (putDock st k r).faults.waiting = st.faults.waiting := rfl

@[simp] theorem putDock_free (st : Store) (k : Nat) (r : Dock) :
    (putDock st k r).cards.free = st.cards.free := rfl

@[simp] theorem putDock_held (st : Store) (k : Nat) (r : Dock) :
    (putDock st k r).fleet.reservationsHeld = st.fleet.reservationsHeld := rfl

theorem stationAt_putStation (st : Store) (k j : Nat) (r : Station) :
    stationAt (putStation st k r) j = if j = k then r else stationAt st j :=
  readAt_writeAt _ _ _ _ _

@[simp] theorem stationAt_putStation_same (st : Store) (k : Nat) (r : Station) : stationAt (putStation st k r) k = r :=
  readAt_writeAt_same _ _ _ _

@[simp] theorem bikeAt_putStation (st : Store) (k j : Nat) (r : Station) :
    bikeAt (putStation st k r) j = bikeAt st j := rfl

@[simp] theorem dockAt_putStation (st : Store) (k j : Nat) (r : Station) :
    dockAt (putStation st k r) j = dockAt st j := rfl

@[simp] theorem cardAt_putStation (st : Store) (k j : Nat) (r : Station) :
    cardAt (putStation st k r) j = cardAt st j := rfl

@[simp] theorem chainAt_putStation (st : Store) (k j : Nat) (r : Station) :
    chainAt (putStation st k r) j = chainAt st j := rfl

@[simp] theorem hireSlotAt_putStation (st : Store) (k j : Nat) (r : Station) :
    hireSlotAt (putStation st k r) j = hireSlotAt st j := rfl

@[simp] theorem ticketSlotAt_putStation (st : Store) (k j : Nat) (r : Station) :
    ticketSlotAt (putStation st k r) j = ticketSlotAt st j := rfl

@[simp] theorem vanAt_putStation (st : Store) (k j : Nat) (r : Station) :
    vanAt (putStation st k r) j = vanAt st j := rfl

@[simp] theorem putStation_timer (st : Store) (k : Nat) (r : Station) : (putStation st k r).timer = st.timer := rfl

@[simp] theorem putStation_tariff (st : Store) (k : Nat) (r : Station) : (putStation st k r).tariff = st.tariff := rfl

@[simp] theorem putStation_waiting (st : Store) (k : Nat) (r : Station) :
    (putStation st k r).faults.waiting = st.faults.waiting := rfl

@[simp] theorem putStation_free (st : Store) (k : Nat) (r : Station) :
    (putStation st k r).cards.free = st.cards.free := rfl

@[simp] theorem putStation_held (st : Store) (k : Nat) (r : Station) :
    (putStation st k r).fleet.reservationsHeld = st.fleet.reservationsHeld := rfl

theorem cardAt_putCard (st : Store) (k j : Nat) (r : Option Card) :
    cardAt (putCard st k r) j = if j = k then r else cardAt st j :=
  readAt_writeAt _ _ _ _ _

@[simp] theorem cardAt_putCard_same (st : Store) (k : Nat) (r : Option Card) : cardAt (putCard st k r) k = r :=
  readAt_writeAt_same _ _ _ _

@[simp] theorem bikeAt_putCard (st : Store) (k j : Nat) (r : Option Card) :
    bikeAt (putCard st k r) j = bikeAt st j := rfl

@[simp] theorem dockAt_putCard (st : Store) (k j : Nat) (r : Option Card) :
    dockAt (putCard st k r) j = dockAt st j := rfl

@[simp] theorem stationAt_putCard (st : Store) (k j : Nat) (r : Option Card) :
    stationAt (putCard st k r) j = stationAt st j := rfl

@[simp] theorem chainAt_putCard (st : Store) (k j : Nat) (r : Option Card) :
    chainAt (putCard st k r) j = chainAt st j := rfl

@[simp] theorem hireSlotAt_putCard (st : Store) (k j : Nat) (r : Option Card) :
    hireSlotAt (putCard st k r) j = hireSlotAt st j := rfl

@[simp] theorem ticketSlotAt_putCard (st : Store) (k j : Nat) (r : Option Card) :
    ticketSlotAt (putCard st k r) j = ticketSlotAt st j := rfl

@[simp] theorem vanAt_putCard (st : Store) (k j : Nat) (r : Option Card) :
    vanAt (putCard st k r) j = vanAt st j := rfl

@[simp] theorem putCard_timer (st : Store) (k : Nat) (r : Option Card) : (putCard st k r).timer = st.timer := rfl

@[simp] theorem putCard_tariff (st : Store) (k : Nat) (r : Option Card) : (putCard st k r).tariff = st.tariff := rfl

@[simp] theorem putCard_waiting (st : Store) (k : Nat) (r : Option Card) :
    (putCard st k r).faults.waiting = st.faults.waiting := rfl

@[simp] theorem putCard_free (st : Store) (k : Nat) (r : Option Card) :
    (putCard st k r).cards.free = st.cards.free := rfl

@[simp] theorem putCard_held (st : Store) (k : Nat) (r : Option Card) :
    (putCard st k r).fleet.reservationsHeld = st.fleet.reservationsHeld := rfl

theorem chainAt_putChain (st : Store) (k j : Nat) (r : List Nat) :
    chainAt (putChain st k r) j = if j = k then r else chainAt st j :=
  readAt_writeAt _ _ _ _ _

@[simp] theorem chainAt_putChain_same (st : Store) (k : Nat) (r : List Nat) : chainAt (putChain st k r) k = r :=
  readAt_writeAt_same _ _ _ _

@[simp] theorem bikeAt_putChain (st : Store) (k j : Nat) (r : List Nat) :
    bikeAt (putChain st k r) j = bikeAt st j := rfl

@[simp] theorem dockAt_putChain (st : Store) (k j : Nat) (r : List Nat) :
    dockAt (putChain st k r) j = dockAt st j := rfl

@[simp] theorem stationAt_putChain (st : Store) (k j : Nat) (r : List Nat) :
    stationAt (putChain st k r) j = stationAt st j := rfl

@[simp] theorem cardAt_putChain (st : Store) (k j : Nat) (r : List Nat) :
    cardAt (putChain st k r) j = cardAt st j := rfl

@[simp] theorem hireSlotAt_putChain (st : Store) (k j : Nat) (r : List Nat) :
    hireSlotAt (putChain st k r) j = hireSlotAt st j := rfl

@[simp] theorem ticketSlotAt_putChain (st : Store) (k j : Nat) (r : List Nat) :
    ticketSlotAt (putChain st k r) j = ticketSlotAt st j := rfl

@[simp] theorem vanAt_putChain (st : Store) (k j : Nat) (r : List Nat) :
    vanAt (putChain st k r) j = vanAt st j := rfl

@[simp] theorem putChain_timer (st : Store) (k : Nat) (r : List Nat) : (putChain st k r).timer = st.timer := rfl

@[simp] theorem putChain_tariff (st : Store) (k : Nat) (r : List Nat) : (putChain st k r).tariff = st.tariff := rfl

@[simp] theorem putChain_waiting (st : Store) (k : Nat) (r : List Nat) :
    (putChain st k r).faults.waiting = st.faults.waiting := rfl

@[simp] theorem putChain_free (st : Store) (k : Nat) (r : List Nat) :
    (putChain st k r).cards.free = st.cards.free := rfl

@[simp] theorem putChain_held (st : Store) (k : Nat) (r : List Nat) :
    (putChain st k r).fleet.reservationsHeld = st.fleet.reservationsHeld := rfl

theorem hireSlotAt_putHireSlot (st : Store) (k j : Nat) (r : HireSlot) :
    hireSlotAt (putHireSlot st k r) j = if j = k then r else hireSlotAt st j :=
  readAt_writeAt _ _ _ _ _

@[simp] theorem hireSlotAt_putHireSlot_same (st : Store) (k : Nat) (r : HireSlot) : hireSlotAt (putHireSlot st k r) k = r :=
  readAt_writeAt_same _ _ _ _

@[simp] theorem bikeAt_putHireSlot (st : Store) (k j : Nat) (r : HireSlot) :
    bikeAt (putHireSlot st k r) j = bikeAt st j := rfl

@[simp] theorem dockAt_putHireSlot (st : Store) (k j : Nat) (r : HireSlot) :
    dockAt (putHireSlot st k r) j = dockAt st j := rfl

@[simp] theorem stationAt_putHireSlot (st : Store) (k j : Nat) (r : HireSlot) :
    stationAt (putHireSlot st k r) j = stationAt st j := rfl

@[simp] theorem cardAt_putHireSlot (st : Store) (k j : Nat) (r : HireSlot) :
    cardAt (putHireSlot st k r) j = cardAt st j := rfl

@[simp] theorem chainAt_putHireSlot (st : Store) (k j : Nat) (r : HireSlot) :
    chainAt (putHireSlot st k r) j = chainAt st j := rfl

@[simp] theorem ticketSlotAt_putHireSlot (st : Store) (k j : Nat) (r : HireSlot) :
    ticketSlotAt (putHireSlot st k r) j = ticketSlotAt st j := rfl

@[simp] theorem vanAt_putHireSlot (st : Store) (k j : Nat) (r : HireSlot) :
    vanAt (putHireSlot st k r) j = vanAt st j := rfl

@[simp] theorem putHireSlot_timer (st : Store) (k : Nat) (r : HireSlot) : (putHireSlot st k r).timer = st.timer := rfl

@[simp] theorem putHireSlot_tariff (st : Store) (k : Nat) (r : HireSlot) : (putHireSlot st k r).tariff = st.tariff := rfl

@[simp] theorem putHireSlot_waiting (st : Store) (k : Nat) (r : HireSlot) :
    (putHireSlot st k r).faults.waiting = st.faults.waiting := rfl

@[simp] theorem putHireSlot_free (st : Store) (k : Nat) (r : HireSlot) :
    (putHireSlot st k r).cards.free = st.cards.free := rfl

@[simp] theorem putHireSlot_held (st : Store) (k : Nat) (r : HireSlot) :
    (putHireSlot st k r).fleet.reservationsHeld = st.fleet.reservationsHeld := rfl

theorem ticketSlotAt_putTicketSlot (st : Store) (k j : Nat) (r : TicketSlot) :
    ticketSlotAt (putTicketSlot st k r) j = if j = k then r else ticketSlotAt st j :=
  readAt_writeAt _ _ _ _ _

@[simp] theorem ticketSlotAt_putTicketSlot_same (st : Store) (k : Nat) (r : TicketSlot) : ticketSlotAt (putTicketSlot st k r) k = r :=
  readAt_writeAt_same _ _ _ _

@[simp] theorem bikeAt_putTicketSlot (st : Store) (k j : Nat) (r : TicketSlot) :
    bikeAt (putTicketSlot st k r) j = bikeAt st j := rfl

@[simp] theorem dockAt_putTicketSlot (st : Store) (k j : Nat) (r : TicketSlot) :
    dockAt (putTicketSlot st k r) j = dockAt st j := rfl

@[simp] theorem stationAt_putTicketSlot (st : Store) (k j : Nat) (r : TicketSlot) :
    stationAt (putTicketSlot st k r) j = stationAt st j := rfl

@[simp] theorem cardAt_putTicketSlot (st : Store) (k j : Nat) (r : TicketSlot) :
    cardAt (putTicketSlot st k r) j = cardAt st j := rfl

@[simp] theorem chainAt_putTicketSlot (st : Store) (k j : Nat) (r : TicketSlot) :
    chainAt (putTicketSlot st k r) j = chainAt st j := rfl

@[simp] theorem hireSlotAt_putTicketSlot (st : Store) (k j : Nat) (r : TicketSlot) :
    hireSlotAt (putTicketSlot st k r) j = hireSlotAt st j := rfl

@[simp] theorem vanAt_putTicketSlot (st : Store) (k j : Nat) (r : TicketSlot) :
    vanAt (putTicketSlot st k r) j = vanAt st j := rfl

@[simp] theorem putTicketSlot_timer (st : Store) (k : Nat) (r : TicketSlot) : (putTicketSlot st k r).timer = st.timer := rfl

@[simp] theorem putTicketSlot_tariff (st : Store) (k : Nat) (r : TicketSlot) : (putTicketSlot st k r).tariff = st.tariff := rfl

@[simp] theorem putTicketSlot_waiting (st : Store) (k : Nat) (r : TicketSlot) :
    (putTicketSlot st k r).faults.waiting = st.faults.waiting := rfl

@[simp] theorem putTicketSlot_free (st : Store) (k : Nat) (r : TicketSlot) :
    (putTicketSlot st k r).cards.free = st.cards.free := rfl

@[simp] theorem putTicketSlot_held (st : Store) (k : Nat) (r : TicketSlot) :
    (putTicketSlot st k r).fleet.reservationsHeld = st.fleet.reservationsHeld := rfl

theorem vanAt_putVan (st : Store) (k j : Nat) (r : Van) :
    vanAt (putVan st k r) j = if j = k then r else vanAt st j :=
  readAt_writeAt _ _ _ _ _

@[simp] theorem vanAt_putVan_same (st : Store) (k : Nat) (r : Van) : vanAt (putVan st k r) k = r :=
  readAt_writeAt_same _ _ _ _

@[simp] theorem bikeAt_putVan (st : Store) (k j : Nat) (r : Van) :
    bikeAt (putVan st k r) j = bikeAt st j := rfl

@[simp] theorem dockAt_putVan (st : Store) (k j : Nat) (r : Van) :
    dockAt (putVan st k r) j = dockAt st j := rfl

@[simp] theorem stationAt_putVan (st : Store) (k j : Nat) (r : Van) :
    stationAt (putVan st k r) j = stationAt st j := rfl

@[simp] theorem cardAt_putVan (st : Store) (k j : Nat) (r : Van) :
    cardAt (putVan st k r) j = cardAt st j := rfl

@[simp] theorem chainAt_putVan (st : Store) (k j : Nat) (r : Van) :
    chainAt (putVan st k r) j = chainAt st j := rfl

@[simp] theorem hireSlotAt_putVan (st : Store) (k j : Nat) (r : Van) :
    hireSlotAt (putVan st k r) j = hireSlotAt st j := rfl

@[simp] theorem ticketSlotAt_putVan (st : Store) (k j : Nat) (r : Van) :
    ticketSlotAt (putVan st k r) j = ticketSlotAt st j := rfl

@[simp] theorem putVan_timer (st : Store) (k : Nat) (r : Van) : (putVan st k r).timer = st.timer := rfl

@[simp] theorem putVan_tariff (st : Store) (k : Nat) (r : Van) : (putVan st k r).tariff = st.tariff := rfl

@[simp] theorem putVan_waiting (st : Store) (k : Nat) (r : Van) :
    (putVan st k r).faults.waiting = st.faults.waiting := rfl

@[simp] theorem putVan_free (st : Store) (k : Nat) (r : Van) :
    (putVan st k r).cards.free = st.cards.free := rfl

@[simp] theorem putVan_held (st : Store) (k : Nat) (r : Van) :
    (putVan st k r).fleet.reservationsHeld = st.fleet.reservationsHeld := rfl

/-! ## The parts of the store that a write leaves alone -/

@[simp] theorem putBike_docks (st : Store) (k : Nat) (r : Bike) :
    (putBike st k r).fleet.docks = st.fleet.docks := rfl

@[simp] theorem putBike_stations (st : Store) (k : Nat) (r : Bike) :
    (putBike st k r).fleet.stations = st.fleet.stations := rfl

@[simp] theorem putBike_cards (st : Store) (k : Nat) (r : Bike) :
    (putBike st k r).cards = st.cards := rfl

@[simp] theorem putBike_hires (st : Store) (k : Nat) (r : Bike) :
    (putBike st k r).hires = st.hires := rfl

@[simp] theorem putBike_faults (st : Store) (k : Nat) (r : Bike) :
    (putBike st k r).faults = st.faults := rfl

@[simp] theorem putBike_vans (st : Store) (k : Nat) (r : Bike) :
    (putBike st k r).vans = st.vans := rfl

@[simp] theorem putDock_bikes (st : Store) (k : Nat) (r : Dock) :
    (putDock st k r).fleet.bikes = st.fleet.bikes := rfl

@[simp] theorem putDock_stations (st : Store) (k : Nat) (r : Dock) :
    (putDock st k r).fleet.stations = st.fleet.stations := rfl

@[simp] theorem putDock_cards (st : Store) (k : Nat) (r : Dock) :
    (putDock st k r).cards = st.cards := rfl

@[simp] theorem putDock_hires (st : Store) (k : Nat) (r : Dock) :
    (putDock st k r).hires = st.hires := rfl

@[simp] theorem putDock_faults (st : Store) (k : Nat) (r : Dock) :
    (putDock st k r).faults = st.faults := rfl

@[simp] theorem putDock_vans (st : Store) (k : Nat) (r : Dock) :
    (putDock st k r).vans = st.vans := rfl

@[simp] theorem putStation_bikes (st : Store) (k : Nat) (r : Station) :
    (putStation st k r).fleet.bikes = st.fleet.bikes := rfl

@[simp] theorem putStation_docks (st : Store) (k : Nat) (r : Station) :
    (putStation st k r).fleet.docks = st.fleet.docks := rfl

@[simp] theorem putStation_cards (st : Store) (k : Nat) (r : Station) :
    (putStation st k r).cards = st.cards := rfl

@[simp] theorem putStation_hires (st : Store) (k : Nat) (r : Station) :
    (putStation st k r).hires = st.hires := rfl

@[simp] theorem putStation_faults (st : Store) (k : Nat) (r : Station) :
    (putStation st k r).faults = st.faults := rfl

@[simp] theorem putStation_vans (st : Store) (k : Nat) (r : Station) :
    (putStation st k r).vans = st.vans := rfl

@[simp] theorem putCard_fleet (st : Store) (k : Nat) (r : Option Card) :
    (putCard st k r).fleet = st.fleet := rfl

@[simp] theorem putCard_chains (st : Store) (k : Nat) (r : Option Card) :
    (putCard st k r).cards.chains = st.cards.chains := rfl

@[simp] theorem putCard_hires (st : Store) (k : Nat) (r : Option Card) :
    (putCard st k r).hires = st.hires := rfl

@[simp] theorem putCard_faults (st : Store) (k : Nat) (r : Option Card) :
    (putCard st k r).faults = st.faults := rfl

@[simp] theorem putCard_vans (st : Store) (k : Nat) (r : Option Card) :
    (putCard st k r).vans = st.vans := rfl

@[simp] theorem putChain_fleet (st : Store) (k : Nat) (r : List Nat) :
    (putChain st k r).fleet = st.fleet := rfl

@[simp] theorem putChain_cards (st : Store) (k : Nat) (r : List Nat) :
    (putChain st k r).cards.cards = st.cards.cards := rfl

@[simp] theorem putChain_hires (st : Store) (k : Nat) (r : List Nat) :
    (putChain st k r).hires = st.hires := rfl

@[simp] theorem putChain_faults (st : Store) (k : Nat) (r : List Nat) :
    (putChain st k r).faults = st.faults := rfl

@[simp] theorem putChain_vans (st : Store) (k : Nat) (r : List Nat) :
    (putChain st k r).vans = st.vans := rfl

@[simp] theorem putHireSlot_fleet (st : Store) (k : Nat) (r : HireSlot) :
    (putHireSlot st k r).fleet = st.fleet := rfl

@[simp] theorem putHireSlot_cards (st : Store) (k : Nat) (r : HireSlot) :
    (putHireSlot st k r).cards = st.cards := rfl

@[simp] theorem putHireSlot_faults (st : Store) (k : Nat) (r : HireSlot) :
    (putHireSlot st k r).faults = st.faults := rfl

@[simp] theorem putHireSlot_vans (st : Store) (k : Nat) (r : HireSlot) :
    (putHireSlot st k r).vans = st.vans := rfl

@[simp] theorem putTicketSlot_fleet (st : Store) (k : Nat) (r : TicketSlot) :
    (putTicketSlot st k r).fleet = st.fleet := rfl

@[simp] theorem putTicketSlot_cards (st : Store) (k : Nat) (r : TicketSlot) :
    (putTicketSlot st k r).cards = st.cards := rfl

@[simp] theorem putTicketSlot_hires (st : Store) (k : Nat) (r : TicketSlot) :
    (putTicketSlot st k r).hires = st.hires := rfl

@[simp] theorem putTicketSlot_vans (st : Store) (k : Nat) (r : TicketSlot) :
    (putTicketSlot st k r).vans = st.vans := rfl

@[simp] theorem putVan_fleet (st : Store) (k : Nat) (r : Van) :
    (putVan st k r).fleet = st.fleet := rfl

@[simp] theorem putVan_cards (st : Store) (k : Nat) (r : Van) :
    (putVan st k r).cards = st.cards := rfl

@[simp] theorem putVan_hires (st : Store) (k : Nat) (r : Van) :
    (putVan st k r).hires = st.hires := rfl

@[simp] theorem putVan_faults (st : Store) (k : Nat) (r : Van) :
    (putVan st k r).faults = st.faults := rfl

/-! ## Reading a record through an update of another part of the store -/

@[simp] theorem bikeAt_mk (st : Store) (c : CardStore) (h : Table HireSlot) (t : TariffUnit) (u : FaultUnit) (v : Table Van) (m : Timer)
    (k : Nat) : bikeAt ⟨st.fleet, c, h, t, u, v, m⟩ k = bikeAt st k := rfl

@[simp] theorem bikeAt_mk_in (st : Store) (b : Table Dock) (d : Table Station) (e : Nat) (c : CardStore) (h : Table HireSlot) (t : TariffUnit) (u : FaultUnit) (v : Table Van) (m : Timer)
    (k : Nat) : bikeAt ⟨⟨st.fleet.bikes, b, d, e⟩, c, h, t, u, v, m⟩ k = bikeAt st k := rfl

@[simp] theorem dockAt_mk (st : Store) (c : CardStore) (h : Table HireSlot) (t : TariffUnit) (u : FaultUnit) (v : Table Van) (m : Timer)
    (k : Nat) : dockAt ⟨st.fleet, c, h, t, u, v, m⟩ k = dockAt st k := rfl

@[simp] theorem dockAt_mk_in (st : Store) (a : Table Bike) (d : Table Station) (e : Nat) (c : CardStore) (h : Table HireSlot) (t : TariffUnit) (u : FaultUnit) (v : Table Van) (m : Timer)
    (k : Nat) : dockAt ⟨⟨a, st.fleet.docks, d, e⟩, c, h, t, u, v, m⟩ k = dockAt st k := rfl

@[simp] theorem stationAt_mk (st : Store) (c : CardStore) (h : Table HireSlot) (t : TariffUnit) (u : FaultUnit) (v : Table Van) (m : Timer)
    (k : Nat) : stationAt ⟨st.fleet, c, h, t, u, v, m⟩ k = stationAt st k := rfl

@[simp] theorem stationAt_mk_in (st : Store) (a : Table Bike) (b : Table Dock) (e : Nat) (c : CardStore) (h : Table HireSlot) (t : TariffUnit) (u : FaultUnit) (v : Table Van) (m : Timer)
    (k : Nat) : stationAt ⟨⟨a, b, st.fleet.stations, e⟩, c, h, t, u, v, m⟩ k = stationAt st k := rfl

@[simp] theorem cardAt_mk (st : Store) (f : FleetStore) (h : Table HireSlot) (t : TariffUnit) (u : FaultUnit) (v : Table Van) (m : Timer)
    (k : Nat) : cardAt ⟨f, st.cards, h, t, u, v, m⟩ k = cardAt st k := rfl

@[simp] theorem cardAt_mk_in (st : Store) (b : Table (List Nat)) (d : List Nat) (f : FleetStore) (h : Table HireSlot) (t : TariffUnit) (u : FaultUnit) (v : Table Van) (m : Timer)
    (k : Nat) : cardAt ⟨f, ⟨st.cards.cards, b, d⟩, h, t, u, v, m⟩ k = cardAt st k := rfl

@[simp] theorem chainAt_mk (st : Store) (f : FleetStore) (h : Table HireSlot) (t : TariffUnit) (u : FaultUnit) (v : Table Van) (m : Timer)
    (k : Nat) : chainAt ⟨f, st.cards, h, t, u, v, m⟩ k = chainAt st k := rfl

@[simp] theorem chainAt_mk_in (st : Store) (a : Table (Option Card)) (d : List Nat) (f : FleetStore) (h : Table HireSlot) (t : TariffUnit) (u : FaultUnit) (v : Table Van) (m : Timer)
    (k : Nat) : chainAt ⟨f, ⟨a, st.cards.chains, d⟩, h, t, u, v, m⟩ k = chainAt st k := rfl

@[simp] theorem hireSlotAt_mk (st : Store) (f : FleetStore) (c : CardStore) (t : TariffUnit) (u : FaultUnit) (v : Table Van) (m : Timer)
    (k : Nat) : hireSlotAt ⟨f, c, st.hires, t, u, v, m⟩ k = hireSlotAt st k := rfl

@[simp] theorem ticketSlotAt_mk (st : Store) (f : FleetStore) (c : CardStore) (h : Table HireSlot) (t : TariffUnit) (v : Table Van) (m : Timer)
    (k : Nat) : ticketSlotAt ⟨f, c, h, t, st.faults, v, m⟩ k = ticketSlotAt st k := rfl

@[simp] theorem ticketSlotAt_mk_in (st : Store) (b : List Subject) (f : FleetStore) (c : CardStore) (h : Table HireSlot) (t : TariffUnit) (v : Table Van) (m : Timer)
    (k : Nat) : ticketSlotAt ⟨f, c, h, t, ⟨st.faults.tickets, b⟩, v, m⟩ k = ticketSlotAt st k := rfl

@[simp] theorem vanAt_mk (st : Store) (f : FleetStore) (c : CardStore) (h : Table HireSlot) (t : TariffUnit) (u : FaultUnit) (m : Timer)
    (k : Nat) : vanAt ⟨f, c, h, t, u, st.vans, m⟩ k = vanAt st k := rfl

/-! ## The work in hand -/

@[simp] theorem setBike_set (w : Work) (b : Nat) (r : Bike) : (w.setBike b r).set = w.set := rfl

@[simp] theorem setBike_store (w : Work) (b : Nat) (r : Bike) :
    (w.setBike b r).store = putBike w.store b r := rfl

@[simp] theorem setBike_notices (w : Work) (b : Nat) (r : Bike) : (w.setBike b r).notices = w.notices := rfl

@[simp] theorem setDock_set (w : Work) (d : Nat) (r : Dock) : (w.setDock d r).set = w.set := rfl

@[simp] theorem setDock_store (w : Work) (d : Nat) (r : Dock) :
    (w.setDock d r).store = putDock w.store d r := rfl

@[simp] theorem setDock_notices (w : Work) (d : Nat) (r : Dock) : (w.setDock d r).notices = w.notices := rfl

@[simp] theorem setStation_set (w : Work) (i : Nat) (r : Station) : (w.setStation i r).set = w.set := rfl

@[simp] theorem setStation_store (w : Work) (i : Nat) (r : Station) :
    (w.setStation i r).store = putStation w.store i r := rfl

@[simp] theorem setStation_notices (w : Work) (i : Nat) (r : Station) : (w.setStation i r).notices = w.notices := rfl

@[simp] theorem setClaimedBy_set (w : Work) (i : Nat) (v : Option Nat) : (w.setClaimedBy i v).set = w.set := rfl

@[simp] theorem setClaimedBy_store (w : Work) (i : Nat) (v : Option Nat) :
    (w.setClaimedBy i v).store = putStation w.store i { stationAt w.store i with claimedBy := v } := rfl

@[simp] theorem setClaimedBy_notices (w : Work) (i : Nat) (v : Option Nat) : (w.setClaimedBy i v).notices = w.notices := rfl

@[simp] theorem setClaimedBy_touched (w : Work) (i : Nat) (v : Option Nat) : (w.setClaimedBy i v).touched = w.touched := rfl

@[simp] theorem setCard_set (w : Work) (k : Nat) (c : Card) : (w.setCard k c).set = w.set := rfl

@[simp] theorem setCard_store (w : Work) (k : Nat) (c : Card) :
    (w.setCard k c).store = putCard w.store k (some c) := rfl

@[simp] theorem setCard_notices (w : Work) (k : Nat) (c : Card) : (w.setCard k c).notices = w.notices := rfl

@[simp] theorem setCard_touched (w : Work) (k : Nat) (c : Card) : (w.setCard k c).touched = w.touched := rfl

@[simp] theorem setVan_set (w : Work) (v : Nat) (r : Van) : (w.setVan v r).set = w.set := rfl

@[simp] theorem setVan_store (w : Work) (v : Nat) (r : Van) :
    (w.setVan v r).store = putVan w.store v r := rfl

@[simp] theorem setVan_notices (w : Work) (v : Nat) (r : Van) : (w.setVan v r).notices = w.notices := rfl

@[simp] theorem setVan_touched (w : Work) (v : Nat) (r : Van) : (w.setVan v r).touched = w.touched := rfl

@[simp] theorem setHireSlot_set (w : Work) (k : Nat) (r : HireSlot) : (w.setHireSlot k r).set = w.set := rfl

@[simp] theorem setHireSlot_store (w : Work) (k : Nat) (r : HireSlot) :
    (w.setHireSlot k r).store = putHireSlot w.store k r := rfl

@[simp] theorem setHireSlot_notices (w : Work) (k : Nat) (r : HireSlot) : (w.setHireSlot k r).notices = w.notices := rfl

@[simp] theorem setHireSlot_touched (w : Work) (k : Nat) (r : HireSlot) : (w.setHireSlot k r).touched = w.touched := rfl

@[simp] theorem setTicketSlot_set (w : Work) (k : Nat) (r : TicketSlot) : (w.setTicketSlot k r).set = w.set := rfl

@[simp] theorem setTicketSlot_store (w : Work) (k : Nat) (r : TicketSlot) :
    (w.setTicketSlot k r).store = putTicketSlot w.store k r := rfl

@[simp] theorem setTicketSlot_notices (w : Work) (k : Nat) (r : TicketSlot) : (w.setTicketSlot k r).notices = w.notices := rfl

@[simp] theorem setTicketSlot_touched (w : Work) (k : Nat) (r : TicketSlot) : (w.setTicketSlot k r).touched = w.touched := rfl

@[simp] theorem setWaiting_set (w : Work) (l : List Subject) : (w.setWaiting l).set = w.set := rfl

@[simp] theorem setWaiting_store (w : Work) (l : List Subject) :
    (w.setWaiting l).store = { w.store with faults.waiting := l } := rfl

@[simp] theorem setWaiting_notices (w : Work) (l : List Subject) : (w.setWaiting l).notices = w.notices := rfl

@[simp] theorem setWaiting_touched (w : Work) (l : List Subject) : (w.setWaiting l).touched = w.touched := rfl

@[simp] theorem setDeadlines_set (w : Work) (l : List Entry) : (w.setDeadlines l).set = w.set := rfl

@[simp] theorem setDeadlines_store (w : Work) (l : List Entry) :
    (w.setDeadlines l).store = { w.store with timer.deadlines := l } := rfl

@[simp] theorem setDeadlines_notices (w : Work) (l : List Entry) : (w.setDeadlines l).notices = w.notices := rfl

@[simp] theorem setDeadlines_touched (w : Work) (l : List Entry) : (w.setDeadlines l).touched = w.touched := rfl

@[simp] theorem setHeldCount_set (w : Work) (n : Nat) : (w.setHeldCount n).set = w.set := rfl

@[simp] theorem setHeldCount_store (w : Work) (n : Nat) :
    (w.setHeldCount n).store = { w.store with fleet.reservationsHeld := n } := rfl

@[simp] theorem setHeldCount_notices (w : Work) (n : Nat) : (w.setHeldCount n).notices = w.notices := rfl

@[simp] theorem setHeldCount_touched (w : Work) (n : Nat) : (w.setHeldCount n).touched = w.touched := rfl

@[simp] theorem raiseNotice_set (w : Work) (n : Notice) : (w.raiseNotice n).set = w.set := rfl

@[simp] theorem raiseNotice_store (w : Work) (n : Notice) :
    (w.raiseNotice n).store = w.store := rfl

@[simp] theorem raiseNotice_notices (w : Work) (n : Notice) :
    (w.raiseNotice n).notices = w.notices ++ [n] := rfl

@[simp] theorem raiseNotice_touched (w : Work) (n : Notice) : (w.raiseNotice n).touched = w.touched := rfl

@[simp] theorem addEntry_set (w : Work) (x : Deadline) (t : Nat) : (w.addEntry x t).set = w.set := rfl

@[simp] theorem addEntry_store (w : Work) (x : Deadline) (t : Nat) :
    (w.addEntry x t).store = { w.store with timer.deadlines := insertEntry ⟨x, t⟩ w.store.timer.deadlines } := rfl

@[simp] theorem addEntry_notices (w : Work) (x : Deadline) (t : Nat) : (w.addEntry x t).notices = w.notices := rfl

@[simp] theorem addEntry_touched (w : Work) (x : Deadline) (t : Nat) : (w.addEntry x t).touched = w.touched := rfl

@[simp] theorem removeEntry_set (w : Work) (x : Deadline) : (w.removeEntry x).set = w.set := rfl

@[simp] theorem removeEntry_store (w : Work) (x : Deadline) :
    (w.removeEntry x).store = { w.store with timer.deadlines := dropEntry x w.store.timer.deadlines } := rfl

@[simp] theorem removeEntry_notices (w : Work) (x : Deadline) : (w.removeEntry x).notices = w.notices := rfl

@[simp] theorem removeEntry_touched (w : Work) (x : Deadline) : (w.removeEntry x).touched = w.touched := rfl

@[simp] theorem setClock_set (w : Work) (t : Nat) : (w.setClock t).set = w.set := rfl

@[simp] theorem setClock_store (w : Work) (t : Nat) :
    (w.setClock t).store = { w.store with timer.clock := some t } := rfl

@[simp] theorem setClock_notices (w : Work) (t : Nat) : (w.setClock t).notices = w.notices := rfl

@[simp] theorem setClock_touched (w : Work) (t : Nat) : (w.setClock t).touched = w.touched := rfl

@[simp] theorem setBike_touched (w : Work) (b : Nat) (r : Bike) :
    (w.setBike b r).touched = w.touched ++ placeStation w.store (bikeAt w.store b).place ++
      placeStation w.store r.place := rfl

@[simp] theorem setDock_touched (w : Work) (d : Nat) (r : Dock) :
    (w.setDock d r).touched = w.touched ++ (dockAt w.store d).station.toList ++ r.station.toList := rfl

@[simp] theorem setStation_touched (w : Work) (i : Nat) (r : Station) :
    (w.setStation i r).touched = w.touched ++ [i] := rfl

/-! ## The state -/

@[simp] theorem raiseEvent_engine (s : State) (e : BitVec 10) : (raiseEvent s e).engine = s.engine := rfl

@[simp] theorem raiseEvent_settings (s : State) (e : BitVec 10) : (raiseEvent s e).settings = s.settings := rfl

@[simp] theorem raiseEvent_store (s : State) (e : BitVec 10) : (raiseEvent s e).store = s.store := rfl

@[simp] theorem raiseEvent_bulk (s : State) (e : BitVec 10) : (raiseEvent s e).bulk = s.bulk := rfl

@[simp] theorem raiseEvent_rings (s : State) (e : BitVec 10) : (raiseEvent s e).rings = s.rings := rfl

@[simp] theorem raiseEvent_passOver (s : State) (e : BitVec 10) : (raiseEvent s e).passOver = s.passOver := rfl

@[simp] theorem raiseEvent_hub (s : State) (e : BitVec 10) : (raiseEvent s e).hub = s.hub := rfl

@[simp] theorem raiseEvent_pending (s : State) (e : BitVec 10) : (raiseEvent s e).pending = s.pending := rfl

@[simp] theorem setRing_engine (s : State) (n : Nat) (r : Ring) : (setRing s n r).engine = s.engine := rfl

@[simp] theorem setRing_settings (s : State) (n : Nat) (r : Ring) : (setRing s n r).settings = s.settings := rfl

@[simp] theorem setRing_store (s : State) (n : Nat) (r : Ring) : (setRing s n r).store = s.store := rfl

@[simp] theorem setRing_bulk (s : State) (n : Nat) (r : Ring) : (setRing s n r).bulk = s.bulk := rfl

@[simp] theorem setRing_passOver (s : State) (n : Nat) (r : Ring) : (setRing s n r).passOver = s.passOver := rfl

@[simp] theorem setRing_hub (s : State) (n : Nat) (r : Ring) : (setRing s n r).hub = s.hub := rfl

@[simp] theorem setRing_pending (s : State) (n : Nat) (r : Ring) : (setRing s n r).pending = s.pending := rfl

@[simp] theorem setRing_port (s : State) (n : Nat) (r : Ring) : (setRing s n r).port = s.port := rfl

@[simp] theorem setRingState_engine (s : State) (n : Nat) (x : RingState) : (setRingState s n x).engine = s.engine := rfl

@[simp] theorem setRingState_settings (s : State) (n : Nat) (x : RingState) : (setRingState s n x).settings = s.settings := rfl

@[simp] theorem setRingState_store (s : State) (n : Nat) (x : RingState) : (setRingState s n x).store = s.store := rfl

@[simp] theorem setRingState_bulk (s : State) (n : Nat) (x : RingState) : (setRingState s n x).bulk = s.bulk := rfl

@[simp] theorem setRingState_passOver (s : State) (n : Nat) (x : RingState) : (setRingState s n x).passOver = s.passOver := rfl

@[simp] theorem setRingState_hub (s : State) (n : Nat) (x : RingState) : (setRingState s n x).hub = s.hub := rfl

@[simp] theorem setRingState_pending (s : State) (n : Nat) (x : RingState) : (setRingState s n x).pending = s.pending := rfl

@[simp] theorem setRingState_port (s : State) (n : Nat) (x : RingState) : (setRingState s n x).port = s.port := rfl

@[simp] theorem beginCommand_engine (s : State) (h : HubInput) : (beginCommand s h).engine = s.engine := rfl

@[simp] theorem beginCommand_settings (s : State) (h : HubInput) : (beginCommand s h).settings = s.settings := rfl

@[simp] theorem beginCommand_store (s : State) (h : HubInput) : (beginCommand s h).store = s.store := rfl

@[simp] theorem beginCommand_bulk (s : State) (h : HubInput) : (beginCommand s h).bulk = s.bulk := rfl

@[simp] theorem beginCommand_rings (s : State) (h : HubInput) : (beginCommand s h).rings = s.rings := rfl

@[simp] theorem beginCommand_passOver (s : State) (h : HubInput) : (beginCommand s h).passOver = s.passOver := rfl

@[simp] theorem beginCommand_pending (s : State) (h : HubInput) : (beginCommand s h).pending = s.pending := rfl

@[simp] theorem beginCommand_port (s : State) (h : HubInput) : (beginCommand s h).port = s.port := rfl

@[simp] theorem setPassOver_engine (s : State) (r : Requester) (n : Nat) : (setPassOver s r n).engine = s.engine := rfl

@[simp] theorem setPassOver_settings (s : State) (r : Requester) (n : Nat) : (setPassOver s r n).settings = s.settings := rfl

@[simp] theorem setPassOver_store (s : State) (r : Requester) (n : Nat) : (setPassOver s r n).store = s.store := rfl

@[simp] theorem setPassOver_bulk (s : State) (r : Requester) (n : Nat) : (setPassOver s r n).bulk = s.bulk := rfl

@[simp] theorem setPassOver_rings (s : State) (r : Requester) (n : Nat) : (setPassOver s r n).rings = s.rings := rfl

@[simp] theorem setPassOver_hub (s : State) (r : Requester) (n : Nat) : (setPassOver s r n).hub = s.hub := rfl

@[simp] theorem setPassOver_pending (s : State) (r : Requester) (n : Nat) : (setPassOver s r n).pending = s.pending := rfl

@[simp] theorem setPassOver_port (s : State) (r : Requester) (n : Nat) : (setPassOver s r n).port = s.port := rfl

@[simp] theorem withQueue_engine (s : State) (l : List Instr) : (State.withQueue s l).engine = s.engine := rfl

@[simp] theorem withQueue_settings (s : State) (l : List Instr) : (State.withQueue s l).settings = s.settings := rfl

@[simp] theorem withQueue_store (s : State) (l : List Instr) : (State.withQueue s l).store = s.store := rfl

@[simp] theorem withQueue_bulk (s : State) (l : List Instr) : (State.withQueue s l).bulk = s.bulk := rfl

@[simp] theorem withQueue_rings (s : State) (l : List Instr) : (State.withQueue s l).rings = s.rings := rfl

@[simp] theorem withQueue_passOver (s : State) (l : List Instr) : (State.withQueue s l).passOver = s.passOver := rfl

@[simp] theorem withQueue_hub (s : State) (l : List Instr) : (State.withQueue s l).hub = s.hub := rfl

@[simp] theorem withQueue_port (s : State) (l : List Instr) : (State.withQueue s l).port = s.port := rfl

@[simp] theorem turnOff_engine (s : State) (n : Nat) : (turnOff s n).engine = s.engine := rfl

@[simp] theorem turnOff_settings (s : State) (n : Nat) : (turnOff s n).settings = s.settings := rfl

@[simp] theorem turnOff_store (s : State) (n : Nat) : (turnOff s n).store = s.store := rfl

@[simp] theorem turnOff_bulk (s : State) (n : Nat) : (turnOff s n).bulk = s.bulk := rfl

@[simp] theorem turnOff_passOver (s : State) (n : Nat) : (turnOff s n).passOver = s.passOver := rfl

@[simp] theorem turnOff_hub (s : State) (n : Nat) : (turnOff s n).hub = s.hub := rfl

@[simp] theorem turnOff_pending (s : State) (n : Nat) : (turnOff s n).pending = s.pending := rfl

@[simp] theorem turnOff_port (s : State) (n : Nat) : (turnOff s n).port = s.port := rfl

@[simp] theorem raiseEvent_index (s : State) (e : BitVec 10) : (raiseEvent s e).port.index = s.port.index := rfl

@[simp] theorem raiseEvent_setupAddress (s : State) (e : BitVec 10) : (raiseEvent s e).port.setupAddress = s.port.setupAddress := rfl

@[simp] theorem raiseEvent_enables (s : State) (e : BitVec 10) : (raiseEvent s e).port.enables = s.port.enables := rfl

@[simp] theorem raiseEvent_dataOut (s : State) (e : BitVec 10) : (raiseEvent s e).port.dataOut = s.port.dataOut := rfl

@[simp] theorem raiseEvent_events (s : State) (e : BitVec 10) :
    (raiseEvent s e).port.events = s.port.events ||| e := rfl

@[simp] theorem setRing_noticeIndex (s : State) (n : Nat) (r : Ring) : (setRing s n r).rings.noticeIndex = s.rings.noticeIndex := rfl

@[simp] theorem setRingState_noticeIndex (s : State) (n : Nat) (x : RingState) : (setRingState s n x).rings.noticeIndex = s.rings.noticeIndex := rfl

@[simp] theorem turnOff_noticeIndex (s : State) (n : Nat) : (turnOff s n).rings.noticeIndex = s.rings.noticeIndex := rfl

@[simp] theorem setRing_notice (s : State) (n : Nat) (r : Ring) : (setRing s n r).rings.notice = s.rings.notice := rfl

@[simp] theorem setRingState_notice (s : State) (n : Nat) (x : RingState) : (setRingState s n x).rings.notice = s.rings.notice := rfl

@[simp] theorem turnOff_notice (s : State) (n : Nat) : (turnOff s n).rings.notice = s.rings.notice := rfl

@[simp] theorem setRing_reserved (s : State) (n : Nat) (r : Ring) : (setRing s n r).rings.reserved = s.rings.reserved := rfl

@[simp] theorem setRingState_reserved (s : State) (n : Nat) (x : RingState) : (setRingState s n x).rings.reserved = s.rings.reserved := rfl

@[simp] theorem turnOff_reserved (s : State) (n : Nat) : (turnOff s n).rings.reserved = s.rings.reserved := rfl

@[simp] theorem setRing_inHand (s : State) (n : Nat) (r : Ring) : (setRing s n r).rings.inHand = s.rings.inHand := rfl

@[simp] theorem setRingState_inHand (s : State) (n : Nat) (x : RingState) : (setRingState s n x).rings.inHand = s.rings.inHand := rfl

@[simp] theorem turnOff_inHand (s : State) (n : Nat) : (turnOff s n).rings.inHand = s.rings.inHand := rfl

@[simp] theorem withQueue_pending (s : State) (l : List Instr) : (s.withQueue l).pending = l := rfl

theorem ringAt_setRing (s : State) (n k : Nat) (r : Ring) :
    ringAt (setRing s n r) k = if k = n then r else ringAt s k :=
  readAt_writeAt _ _ _ _ _

@[simp] theorem ringAt_setRing_same (s : State) (n : Nat) (r : Ring) : ringAt (setRing s n r) n = r :=
  readAt_writeAt_same _ _ _ _

@[simp] theorem ringAt_raiseEvent (s : State) (e : BitVec 10) (k : Nat) :
    ringAt (raiseEvent s e) k = ringAt s k := rfl

@[simp] theorem ringAt_beginCommand (s : State) (h : HubInput) (k : Nat) :
    ringAt (beginCommand s h) k = ringAt s k := rfl

@[simp] theorem beginCommand_mem (s : State) (h : HubInput) :
    (beginCommand s h).hub.mem = hubStores s.hub.mem h.writes := rfl

@[simp] theorem beginCommand_answers (s : State) (h : HubInput) :
    (beginCommand s h).hub.answers = h.answers := rfl

/-! ## The reset pin and the end of a STOP (R178, R179) -/

@[simp] theorem clockCleared_fleet (st : Store) : (clockCleared st).fleet = st.fleet := rfl

@[simp] theorem clockCleared_cards (st : Store) : (clockCleared st).cards = st.cards := rfl

@[simp] theorem clockCleared_hires (st : Store) : (clockCleared st).hires = st.hires := rfl

@[simp] theorem clockCleared_tariff (st : Store) : (clockCleared st).tariff = st.tariff := rfl

@[simp] theorem clockCleared_faults (st : Store) : (clockCleared st).faults = st.faults := rfl

@[simp] theorem clockCleared_vans (st : Store) : (clockCleared st).vans = st.vans := rfl

@[simp] theorem clockCleared_clock (st : Store) : (clockCleared st).timer.clock = none := rfl

@[simp] theorem clockCleared_captured (st : Store) : (clockCleared st).timer.captured = 0#16 := rfl

@[simp] theorem clockCleared_deadlines (st : Store) :
    (clockCleared st).timer.deadlines = st.timer.deadlines := rfl

@[simp] theorem resetPart_engine (b : Bool) (s : State) :
    (resetPart b s).engine = ⟨.stopped, false, false, .none, b⟩ := rfl

@[simp] theorem resetPart_settings (b : Bool) (s : State) :
    (resetPart b s).settings = s.settings := rfl

@[simp] theorem resetPart_store (b : Bool) (s : State) :
    (resetPart b s).store = clockCleared s.store := rfl

@[simp] theorem resetPart_bulk (b : Bool) (s : State) :
    (resetPart b s).bulk = none := rfl

@[simp] theorem resetPart_passOver (b : Bool) (s : State) :
    (resetPart b s).passOver = [] := rfl

@[simp] theorem resetPart_pending (b : Bool) (s : State) :
    (resetPart b s).pending = s.pending := rfl

@[simp] theorem resetPart_hub (b : Bool) (s : State) :
    (resetPart b s).hub = { s.hub with answers := [] } := rfl

@[simp] theorem resetPart_notice (b : Bool) (s : State) :
    (resetPart b s).rings.notice = s.rings.notice := rfl

@[simp] theorem resetPart_noticeIndex (b : Bool) (s : State) :
    (resetPart b s).rings.noticeIndex = 0 := rfl

@[simp] theorem resetPart_reserved (b : Bool) (s : State) :
    (resetPart b s).rings.reserved = none := rfl

@[simp] theorem resetPart_inHand (b : Bool) (s : State) :
    (resetPart b s).rings.inHand = none := rfl

@[simp] theorem haltEngine_settings (s : State) : (haltEngine s).settings = s.settings := rfl

@[simp] theorem haltEngine_store (s : State) : (haltEngine s).store = s.store := rfl

@[simp] theorem haltEngine_bulk (s : State) : (haltEngine s).bulk = s.bulk := rfl

@[simp] theorem haltEngine_hub (s : State) : (haltEngine s).hub = s.hub := rfl

@[simp] theorem haltEngine_pending (s : State) : (haltEngine s).pending = s.pending := rfl

@[simp] theorem haltEngine_notice (s : State) : (haltEngine s).rings.notice = s.rings.notice := rfl

@[simp] theorem haltEngine_noticeIndex (s : State) : (haltEngine s).rings.noticeIndex = s.rings.noticeIndex := rfl

@[simp] theorem haltEngine_reserved (s : State) : (haltEngine s).rings.reserved = s.rings.reserved := rfl

@[simp] theorem haltEngine_inHand (s : State) : (haltEngine s).rings.inHand = s.rings.inHand := rfl

@[simp] theorem haltEngine_passOver (s : State) : (haltEngine s).passOver = [] := rfl

@[simp] theorem haltEngine_engine (s : State) :
    (haltEngine s).engine = { s.engine with state := .stopped, stopPending := false } := rfl

@[simp] theorem storePart_engine (s : State) (a : Nat) (l : List Byte) (p : Bool) (n : Nat) :
    (storePart s a l p n).engine = s.engine := by
  cases p <;> rfl

@[simp] theorem storePart_port (s : State) (a : Nat) (l : List Byte) (p : Bool) (n : Nat) :
    (storePart s a l p n).port = s.port := by
  cases p <;> rfl

@[simp] theorem storePart_settings (s : State) (a : Nat) (l : List Byte) (p : Bool) (n : Nat) :
    (storePart s a l p n).settings = s.settings := by
  cases p <;> rfl

@[simp] theorem storePart_store (s : State) (a : Nat) (l : List Byte) (p : Bool) (n : Nat) :
    (storePart s a l p n).store = s.store := by
  cases p <;> rfl

@[simp] theorem storePart_bulk (s : State) (a : Nat) (l : List Byte) (p : Bool) (n : Nat) :
    (storePart s a l p n).bulk = s.bulk := by
  cases p <;> rfl

@[simp] theorem storePart_rings (s : State) (a : Nat) (l : List Byte) (p : Bool) (n : Nat) :
    (storePart s a l p n).rings = s.rings := by
  cases p <;> rfl

@[simp] theorem storePart_passOver (s : State) (a : Nat) (l : List Byte) (p : Bool) (n : Nat) :
    (storePart s a l p n).passOver = s.passOver := by
  cases p <;> rfl

@[simp] theorem storePart_pending (s : State) (a : Nat) (l : List Byte) (p : Bool) (n : Nat) :
    (storePart s a l p n).pending = s.pending := by
  cases p <;> rfl

@[simp] theorem storePart_answers (s : State) (a : Nat) (l : List Byte) (p : Bool) (n : Nat) :
    (storePart s a l p n).hub.answers = s.hub.answers := by
  cases p <;> rfl

@[simp] theorem storePart_nothing (s : State) (a : Nat) (l : List Byte) (p : Bool) : storePart s a l p 0 = s := by
  cases p <;> rfl

/-- R178 step 4: a ring once every request ring has been made OFF. -/
theorem ringAt_turnAllOff (s : State) (k : Nat) :
    ringAt (turnAllOff s) k =
      if k < requestRings then { ringAt s k with state := .off, stopPending := false } else ringAt s k := by
  have e : turnAllOff s = turnOff (turnOff (turnOff (turnOff s 0) 1) 2) 3 := rfl
  rw [e]
  simp only [turnOff, ringAt_setRing]
  by_cases h : k < requestRings
  · rw [if_pos h]
    have hk : k = 0 ∨ k = 1 ∨ k = 2 ∨ k = 3 := by unfold requestRings at h; omega
    rcases hk with rfl | rfl | rfl | rfl <;> rfl
  · have h' : ¬ k < 4 := h
    rw [if_neg h, if_neg (by omega), if_neg (by omega), if_neg (by omega), if_neg (by omega)]

theorem ringAt_haltEngine (s : State) (k : Nat) :
    ringAt (haltEngine s) k =
      if k < requestRings then { ringAt s k with state := .off, stopPending := false } else ringAt s k :=
  ringAt_turnAllOff s k

/-- R179: a request ring after the reset pin. -/
theorem ringAt_resetPart (b : Bool) (s : State) (k : Nat) :
    ringAt (resetPart b s) k = if k < requestRings then resetRing (ringAt s k) else formattedRing := by
  have e : ringAt (resetPart b s) k = readAt formattedRing (resetRings s) k := rfl
  have e' : resetRings s =
      writeAt formattedRing (writeAt formattedRing (writeAt formattedRing (writeAt formattedRing []
        0 (resetRing (ringAt s 0))) 1 (resetRing (ringAt s 1))) 2 (resetRing (ringAt s 2))) 3
        (resetRing (ringAt s 3)) := rfl
  rw [e, e']
  simp only [readAt_writeAt]
  by_cases h : k < requestRings
  · rw [if_pos h]
    have hk : k = 0 ∨ k = 1 ∨ k = 2 ∨ k = 3 := by unfold requestRings at h; omega
    rcases hk with rfl | rfl | rfl | rfl <;> rfl
  · have h' : ¬ k < 4 := h
    rw [if_neg h, if_neg (by omega), if_neg (by omega), if_neg (by omega), if_neg (by omega)]
    rfl

/-- R178: every count is 0 once the engine has stopped. -/
theorem passOverOf_haltEngine (s : State) (r : Requester) : passOverOf (haltEngine s) r = 0 := by
  rw [passOverOf, haltEngine_passOver]
  rfl

@[simp] theorem turnAllOff_port (s : State) : (turnAllOff s).port = s.port := rfl

@[simp] theorem haltEngine_port (s : State) :
    (haltEngine s).port = { s.port with events := s.port.events ||| stopDone } := by
  have h := turnAllOff_port s
  unfold haltEngine raiseEvent
  rw [← h]

end Sys2Proof.Laws
end

