-- ==== Sys2Proof/Laws/Ring.lean ====
section
/-! SUPPORT. What the hub bus, a look, the arbiter and the taking of a request can do: one lemma each, on a
clean bus, and the lemma of a whole grant, which says what it leaves outside the record store. -/

namespace Sys2Proof.Laws

open Sys2Proof Sys2Proof.Machine

/-! ## The bus -/

/-- Every answer that the bus has left to give is a success. -/
def AllOk (l : List BusAnswer) : Prop := ∀ a ∈ l, a = BusAnswer.ok

theorem AllOk.tail {l : List BusAnswer} (h : AllOk l) : AllOk l.tail :=
  fun a ha => h a (List.mem_of_mem_tail ha)

/-- The state with the answers the bus has left. -/
def withAnswers (s : State) (l : List BusAnswer) : State := { s with hub.answers := l }

@[simp] theorem withAnswers_mem (s : State) (l : List BusAnswer) : (withAnswers s l).hub.mem = s.hub.mem := rfl
@[simp] theorem withAnswers_answers (s : State) (l : List BusAnswer) : (withAnswers s l).hub.answers = l := rfl
@[simp] theorem withAnswers_engine (s : State) (l : List BusAnswer) : (withAnswers s l).engine = s.engine := rfl
@[simp] theorem withAnswers_store (s : State) (l : List BusAnswer) : (withAnswers s l).store = s.store := rfl
@[simp] theorem withAnswers_settings (s : State) (l : List BusAnswer) :
    (withAnswers s l).settings = s.settings := rfl
@[simp] theorem withAnswers_rings (s : State) (l : List BusAnswer) : (withAnswers s l).rings = s.rings := rfl
@[simp] theorem withAnswers_port (s : State) (l : List BusAnswer) : (withAnswers s l).port = s.port := rfl
@[simp] theorem withAnswers_bulk (s : State) (l : List BusAnswer) : (withAnswers s l).bulk = s.bulk := rfl
@[simp] theorem withAnswers_passOver (s : State) (l : List BusAnswer) :
    (withAnswers s l).passOver = s.passOver := rfl
@[simp] theorem withAnswers_pending (s : State) (l : List BusAnswer) : (withAnswers s l).pending = s.pending := rfl
@[simp] theorem ringAt_withAnswers (s : State) (l : List BusAnswer) (n : Nat) :
    ringAt (withAnswers s l) n = ringAt s n := rfl
@[simp] theorem withAnswers_withAnswers (s : State) (l l' : List BusAnswer) :
    withAnswers (withAnswers s l) l' = withAnswers s l' := rfl

theorem busAnswer_clean {s : State} (h : AllOk s.hub.answers) :
    busAnswer s = (.ok, withAnswers s s.hub.answers.tail) := by
  unfold busAnswer
  split
  · rename_i hn
    simp only [withAnswers, hn, List.tail_nil]
    rw [← hn]
  · rename_i rest hn
    simp [withAnswers, hn]
  · rename_i n rest hn
    exact absurd (h (.error n) (by simp [hn])) (by simp)
  · rename_i n rest hn
    exact absurd (h (.reset n) (by simp [hn])) (by simp)

/-- On a clean bus no reset is taken. -/
theorem resetTaken_clean {l : List BusAnswer} (h : AllOk l) : resetTaken l = false := by
  unfold resetTaken
  split
  · exact absurd (h _ (List.mem_cons_self ..)) (by simp)
  · rfl

theorem busRead_clean {s : State} (h : AllOk s.hub.answers) (a n : Nat) :
    busRead s a n = (some (memRead s.hub.mem a n), withAnswers s s.hub.answers.tail) := by
  simp [busRead, busAnswer_clean h]

theorem busOwn_clean {s : State} (h : AllOk s.hub.answers) (a : Nat) :
    busOwn s a = (some (ownAt s.hub.mem a), withAnswers s s.hub.answers.tail) := by
  simp [busOwn, busRead_clean h, ownAt]

/-- The state with hub memory and the bus's answers replaced. -/
def withHub (s : State) (m : Table Byte) (l : List BusAnswer) : State := { s with hub := ⟨m, l⟩ }

theorem busWrite_clean {s : State} (h : AllOk s.hub.answers) (a : Nat) (b : List Byte) (p : Bool) :
    busWrite s a b p = (true, withHub s (memWrite s.hub.mem a b) s.hub.answers.tail) := by
  simp [busWrite, busAnswer_clean h, withHub, withAnswers]

@[simp] theorem withHub_mem (s : State) (m : Table Byte) (l : List BusAnswer) : (withHub s m l).hub.mem = m := rfl
@[simp] theorem withHub_answers (s : State) (m : Table Byte) (l : List BusAnswer) :
    (withHub s m l).hub.answers = l := rfl
@[simp] theorem withHub_rings (s : State) (m : Table Byte) (l : List BusAnswer) :
    (withHub s m l).rings = s.rings := rfl
@[simp] theorem ringAt_withHub (s : State) (m : Table Byte) (l : List BusAnswer) (n : Nat) :
    ringAt (withHub s m l) n = ringAt s n := rfl

/-! ## A reset in the middle of a command (R179) -/

/-- The reset pin has been asserted at an access of the command: no later access is made. -/
def Cut (s : State) : Prop := s.hub.answers = [.reset 0]

theorem busAnswer_reset {s : State} {d : Nat} {rest : List BusAnswer} (h : s.hub.answers = .reset d :: rest) :
    busAnswer s = (.reset d, withAnswers s [.reset 0]) := by
  unfold busAnswer
  simp only [h, withAnswers]

theorem busRead_reset {s : State} {d : Nat} {rest : List BusAnswer} (h : s.hub.answers = .reset d :: rest)
    (a n : Nat) : busRead s a n = (none, withAnswers s [.reset 0]) := by
  simp [busRead, busAnswer_reset h]

theorem busOwn_reset {s : State} {d : Nat} {rest : List BusAnswer} (h : s.hub.answers = .reset d :: rest)
    (a : Nat) : busOwn s a = (none, withAnswers s [.reset 0]) := by
  simp [busOwn, busRead_reset h]

theorem busWrite_reset {s : State} {d : Nat} {rest : List BusAnswer} (h : s.hub.answers = .reset d :: rest)
    (a : Nat) (l : List Byte) (p : Bool) :
    busWrite s a l p = (false, storePart (withAnswers s [.reset 0]) a l p d) := by
  simp [busWrite, busAnswer_reset h]

theorem Cut.same {s : State} (h : Cut s) : withAnswers s [.reset 0] = s := by
  unfold withAnswers
  rw [← h]

theorem busWrite_cut {s : State} (h : Cut s) (a : Nat) (l : List Byte) (p : Bool) :
    busWrite s a l p = (false, s) := by
  rw [busWrite_reset h, h.same, storePart_nothing]

theorem look_cut {s : State} (h : Cut s) (n : Nat) : look s n = failRing s n := by
  simp [look, busOwn_reset h, h.same]

theorem writeNotice_cut {s : State} (h : Cut s) (n : Notice) : writeNotice s n = dropNotice s := by
  simp [writeNotice, busOwn_reset h, h.same]

/-- Once the reset pin is asserted the notices of the work are not written: nothing but an event flag, which the
reset clears, is changed. -/
theorem writeNotices_cut {s : State} (h : Cut s) (l : List Notice) :
    ∃ e, writeNotices s l = { s with port.events := e } := by
  induction l generalizing s with
  | nil => exact ⟨s.port.events, rfl⟩
  | cons n l ih =>
    change ∃ e, writeNotices (writeNotice s n) l = _
    rw [writeNotice_cut h]
    exact ih (s := dropNotice s) h

/-- The end of a command in which the reset pin is asserted. -/
theorem endCommand_reset {s : State} {d : Nat} {rest : List BusAnswer} (h : s.hub.answers = .reset d :: rest) :
    endCommand s = resetPart true s := by
  unfold endCommand
  rw [h]
  rfl

/-! ## A look (R156) -/

theorem seenState_withAnswers (s : State) (l : List BusAnswer) (n : Nat) :
    seenState (withAnswers s l) n = seenState s n := rfl

/-- R156: on a clean bus a look sets the state of its ring to what it sees, and changes nothing else. -/
theorem look_clean {s : State} (h : AllOk s.hub.answers) (n : Nat) :
    ∃ l, AllOk l ∧ look s n = setRingState (withAnswers s l) n (seenState s n) := by
  have hc : AllOk (withAnswers s s.hub.answers.tail).hub.answers := h.tail
  have e1 := busOwn_clean h (headAddress s n)
  have e2 := busOwn_clean hc (responseAddress s n)
  by_cases h1 : ownAt s.hub.mem (headAddress s n) = true
  · by_cases h2 : slotReserved s n = true
    · have h2' : slotReserved (withAnswers s s.hub.answers.tail) n = true := h2
      refine ⟨_, h.tail, ?_⟩
      rw [h1] at e1
      unfold look
      simp only [headAddress] at e1
      simp [e1, h2', seenState, h1, h2]
    · have h2' : ¬ slotReserved (withAnswers s s.hub.answers.tail) n = true := h2
      refine ⟨_, h.tail.tail, ?_⟩
      rw [h1] at e1
      unfold look
      simp only [headAddress] at e1
      simp only [responseAddress] at e2
      simp [e1, e2, h2', seenState, h1, h2, responseAddress]
      rfl
  · refine ⟨_, h.tail, ?_⟩
    rw [Bool.not_eq_true] at h1
    rw [h1] at e1
    unfold look
    simp only [headAddress] at e1
    simp [e1, seenState, h1]

/-! ## Notices (R166) -/

/-- The state with its board, and the bus's answers, replaced. -/
def putBoard (s : State) (b : Board) (l : List BusAnswer) : State :=
  { s with hub := ⟨b.mem, l⟩, rings.noticeIndex := b.index, port.events := b.events }

theorem writeNotice_clean {s : State} (h : AllOk s.hub.answers) (n : Notice) :
    ∃ l, AllOk l ∧
      writeNotice s n = putBoard s (post s.rings.notice s.store.timer.clock (boardOf s) n) l := by
  have hc : AllOk (withAnswers s s.hub.answers.tail).hub.answers := h.tail
  have e1 := busOwn_clean h (slotAddress s.rings.notice s.rings.noticeIndex)
  have e2 := busWrite_clean hc (slotAddress s.rings.notice s.rings.noticeIndex)
    (noticeBytes s.store.timer.clock n) false
  by_cases ho : ownAt s.hub.mem (slotAddress s.rings.notice s.rings.noticeIndex) = true
  · refine ⟨_, h.tail.tail, ?_⟩
    rw [ho] at e1
    unfold writeNotice
    simp only [e1, withAnswers_store, e2, post, boardOf, ho, if_true]
    simp only [withAnswers, withHub, putBoard, raiseEvent]
  · refine ⟨_, h.tail, ?_⟩
    rw [Bool.not_eq_true] at ho
    rw [ho] at e1
    unfold writeNotice
    simp only [e1, post, boardOf, ho, Bool.false_eq_true, if_false]
    simp only [withAnswers, putBoard, dropNotice, raiseEvent]

/-- R166: on a clean bus the notices of a work are posted in order, and nothing else changes. -/
theorem writeNotices_clean (ns : List Notice) {s : State} (h : AllOk s.hub.answers) :
    ∃ l, AllOk l ∧
      writeNotices s ns = putBoard s (ns.foldl (post s.rings.notice s.store.timer.clock) (boardOf s)) l := by
  induction ns generalizing s with
  | nil => exact ⟨s.hub.answers, h, rfl⟩
  | cons n ns ih =>
    obtain ⟨l, hl, he⟩ := writeNotice_clean h n
    have hc : AllOk (writeNotice s n).hub.answers := by rw [he]; exact hl
    obtain ⟨l', hl', he'⟩ := ih hc
    refine ⟨l', hl', ?_⟩
    change writeNotices (writeNotice s n) ns = _
    rw [he', he]
    rfl

/-! ## The arbiter (R167 to R169) -/

theorem find?_requester {s : State} {p : Requester → Bool} {g : Requester}
    (h : requesters.find? (fun r => requesting s r && p r) = some g) : requesting s g = true ∧ g ∈ requesters := by
  have h1 := List.find?_some h
  have h2 := List.mem_of_find?_eq_some h
  simp only [Bool.and_eq_true] at h1
  exact ⟨h1.1, h2⟩

/-- R167, R169: a grant is made only while the engine is RUNNING with no STOP pending, and to a requester
that requests. -/
theorem arbiterChoice_some {s : State} {g : Requester} (h : arbiterChoice s = some g) :
    s.engine.state = .running ∧ s.engine.stopPending = false ∧ requesting s g = true ∧ g ∈ requesters := by
  unfold arbiterChoice at h
  split at h
  · rename_i he
    refine ⟨he.1, he.2, ?_⟩
    split at h
    · rename_i r hr
      cases h
      exact find?_requester hr
    · have : requesters.find? (fun r => requesting s r && (fun _ => true) r) = some g := by simpa using h
      exact find?_requester this
  · cases h

/-- The state with its pass-over counts replaced. -/
def withCounts (s : State) (p : Table Nat) : State := { s with passOver := p }

theorem charge_fold (f : Requester → Nat) (l : List Requester) (s : State) (p : Table Nat) :
    l.foldl (fun t r => setPassOver t r (f r)) (withCounts s p) =
      withCounts s (l.foldl (fun p r => writeAt 0 p r.priority (f r)) p) := by
  induction l generalizing p with
  | nil => rfl
  | cons r l ih => exact ih (writeAt 0 p r.priority (f r))

/-- R168: the counts after a grant; nothing else changes. -/
theorem chargeGrant_eq (s : State) (g : Requester) :
    ∃ p, chargeGrant s g = withCounts s p ∧ ∀ r ∈ requesters, readAt 0 p r.priority = countAfterGrant s g r := by
  refine ⟨_, charge_fold (countAfterGrant s g) requesters s s.passOver, ?_⟩
  generalize countAfterGrant s g = f
  intro r hr
  simp only [requesters, List.mem_cons, List.not_mem_nil, or_false] at hr
  rcases hr with rfl | rfl | rfl | rfl | rfl | rfl <;>
    simp [requesters, readAt_writeAt, Requester.priority]

theorem requesting_withCounts (s : State) (p : Table Nat) (r : Requester) :
    requesting (withCounts s p) r = requesting s r := by
  cases r <;> rfl

/-- The counts after one requester is settled. -/
def settledCount (s : State) (p : Table Nat) (r : Requester) : Table Nat :=
  if requesting s r then p else writeAt 0 p r.priority 0

theorem settle_fold (s : State) (l : List Requester) (p : Table Nat) :
    l.foldl (fun t r => if requesting s r then t else setPassOver t r 0) (withCounts s p) =
      withCounts s (l.foldl (settledCount s) p) := by
  induction l generalizing p with
  | nil => rfl
  | cons r l ih =>
    simp only [List.foldl_cons]
    rw [← ih]
    congr 1
    unfold settledCount
    split <;> rfl

/-- R168: a requester that does not request has count 0; nothing else changes. -/
theorem settleCounts_eq (s : State) :
    ∃ p, settleCounts s = withCounts s p ∧
      ∀ r ∈ requesters, readAt 0 p r.priority = if requesting s r then passOverOf s r else 0 := by
  refine ⟨_, settle_fold s requesters s.passOver, ?_⟩
  have step : ∀ (p : Table Nat) (r : Requester) (k : Nat), readAt 0 (settledCount s p r) k =
      if requesting s r then readAt 0 p k else if k = r.priority then 0 else readAt 0 p k := by
    intro p r k
    unfold settledCount
    split
    · rfl
    · exact readAt_writeAt _ _ _ _ _
  intro r hr
  simp only [requesters, List.mem_cons, List.not_mem_nil, or_false] at hr
  rcases hr with rfl | rfl | rfl | rfl | rfl | rfl <;>
    simp [requesters, step, Requester.priority, passOverOf]

end Sys2Proof.Laws
end

