-- ==== Sys2Proof/Laws/Grant.lean ====
section
/-! SUPPORT. What a whole grant can do on a clean bus: the grant to a ring that takes a request
(`grantRequest_answered`, `grantRequest_work`) and the grant to the Timer Unit (`grantExpiry_elapsed`). -/

namespace Sys2Proof.Laws

open Sys2Proof Sys2Proof.Machine

/-! ## The parts of a state that stand still -/

/-- The fields that the Ring Interface leaves alone through the answer to a request. -/
structure Still (s t : State) : Prop where
  settings : t.settings = s.settings
  index : t.port.index = s.port.index
  setupAddress : t.port.setupAddress = s.port.setupAddress
  enables : t.port.enables = s.port.enables
  dataOut : t.port.dataOut = s.port.dataOut
  notice : t.rings.notice = s.rings.notice
  reserved : t.rings.reserved = s.rings.reserved
  pending : t.pending = s.pending
  bulk : t.bulk = s.bulk
  passOver : t.passOver = s.passOver

theorem Still.refl (s : State) : Still s s := ⟨rfl, rfl, rfl, rfl, rfl, rfl, rfl, rfl, rfl, rfl⟩

theorem Still.trans {s t u : State} (h : Still s t) (k : Still t u) : Still s u :=
  ⟨k.settings.trans h.settings, k.index.trans h.index, k.setupAddress.trans h.setupAddress,
    k.enables.trans h.enables, k.dataOut.trans h.dataOut, k.notice.trans h.notice,
    k.reserved.trans h.reserved, k.pending.trans h.pending, k.bulk.trans h.bulk,
    k.passOver.trans h.passOver⟩

theorem still_setRing (s : State) (n : Nat) (r : Ring) : Still s (setRing s n r) :=
  ⟨rfl, rfl, rfl, rfl, rfl, rfl, rfl, rfl, rfl, rfl⟩

theorem still_putBoard (s : State) (b : Board) (l : List BusAnswer) : Still s (putBoard s b l) :=
  ⟨rfl, rfl, rfl, rfl, rfl, rfl, rfl, rfl, rfl, rfl⟩

theorem still_withAnswers (s : State) (l : List BusAnswer) : Still s (withAnswers s l) :=
  ⟨rfl, rfl, rfl, rfl, rfl, rfl, rfl, rfl, rfl, rfl⟩

theorem still_withHub (s : State) (m : Table Byte) (l : List BusAnswer) : Still s (withHub s m l) :=
  ⟨rfl, rfl, rfl, rfl, rfl, rfl, rfl, rfl, rfl, rfl⟩

/-! ## The look at the end of a grant -/

/-- R159, R163, R178: on a clean bus the end of a grant sets the state of its ring, and clears its
stop-pending flag where that is set. -/
theorem lookAgain_clean {s : State} (h : AllOk s.hub.answers) (n : Nat) :
    ∃ l, AllOk l ∧ lookAgain s n =
      if (ringAt s n).stopPending || s.engine.stopPending then turnOff s n
      else setRingState (withAnswers s l) n (seenState s n) := by
  obtain ⟨l, hl, he⟩ := look_clean h n
  refine ⟨l, hl, ?_⟩
  simp only [lookAgain, endGrant, he]

/-! ## The answer to a request -/

/-- The state with the response index of ring `n` advanced and the board replaced. -/
def answeredState (s : State) (n : Nat) (b : Board) (l : List BusAnswer) : State :=
  putBoard (setRing s n
    { ringAt s n with responseIndex := advance (ringAt s n).response (ringAt s n).responseIndex }) b l

/-- The hub memory that a response leaves. -/
def respond (s : State) (n : Nat) (code : Byte) (q : Request) (r : Reply) : Table Byte :=
  memWrite (blockMem q r s.hub.mem) (responseAddress s n)
    (responseBytes code q.tag r (isTruncated q r) (wantsBlock q r))

theorem writeResponse_clean {s : State} (h : AllOk s.hub.answers) (n : Nat) (code : Byte) (q : Request)
    (r : Reply) :
    ∃ l, AllOk l ∧ writeResponse s n code q r = (true, withHub s (respond s n code q r) l) := by
  by_cases hw : wantsBlock q r = true
  · have e1 := busWrite_clean h q.block.toNat r.result true
    have hc : AllOk (withHub s (memWrite s.hub.mem q.block.toNat r.result) s.hub.answers.tail).hub.answers :=
      h.tail
    have e2 := busWrite_clean hc (responseAddress s n)
      (responseBytes code q.tag r (isTruncated q r) (wantsBlock q r)) false
    refine ⟨_, h.tail.tail, ?_⟩
    unfold writeResponse writeBlock
    simp only [responseAddress] at e2
    simp only [hw, if_true, e1, ringAt_withHub] at e2 ⊢
    rw [e2]
    simp only [respond, blockMem, hw, if_true, withHub_mem, responseAddress]
    rfl
  · have e2 := busWrite_clean h (responseAddress s n)
      (responseBytes code q.tag r (isTruncated q r) (wantsBlock q r)) false
    refine ⟨_, h.tail, ?_⟩
    unfold writeResponse writeBlock
    simp only [responseAddress] at e2
    rw [Bool.not_eq_true] at hw
    simp only [hw, Bool.false_eq_true, if_false] at e2 ⊢
    rw [e2]
    simp only [respond, blockMem, hw, Bool.false_eq_true, if_false, responseAddress]

/-- R163, R166: on a clean bus the response and the notices are written, and the grant ends with a look. -/
theorem answer_clean {s : State} (h : AllOk s.hub.answers) (n : Nat) (code : Byte) (q : Request) (r : Reply)
    (ns : List Notice) :
    ∃ l, AllOk l ∧ answer s n code q r ns = lookAgain (answeredState s n
      (ns.foldl (post s.rings.notice s.store.timer.clock)
        ⟨respond s n code q r, s.rings.noticeIndex, s.port.events ||| responseWritten n⟩) l) n := by
  obtain ⟨l, hl, hw⟩ := writeResponse_clean h n code q r
  have hc : AllOk (raiseEvent (setRing (withHub s (respond s n code q r) l) n
      { ringAt s n with responseIndex := advance (ringAt s n).response (ringAt s n).responseIndex })
      (responseWritten n)).hub.answers := hl
  obtain ⟨l', hl', he⟩ := writeNotices_clean ns hc
  refine ⟨l', hl', ?_⟩
  unfold answer
  rw [hw]
  simp only [ringAt_withHub]
  rw [he]
  simp only [answeredState, putBoard, raiseEvent, setRing, withHub, boardOf]

/-! ## The grant -/

theorem granted_ready {q : Request} {s : State} (h : granted q s = true) :
    s.engine.state = .running ∧ s.engine.stopPending = false ∧ (ringAt s q.ring.val).state = .ready := by
  have hc : arbiterChoice s = some (.ring q.ring.val) := by simpa [granted] using h
  obtain ⟨h1, h2, h3, -⟩ := arbiterChoice_some hc
  simp only [requesting, Bool.and_eq_true, decide_eq_true_eq] at h3
  exact ⟨h1, h2, h3.1⟩

/-- What the grant of a ring leaves before its descriptor is read. -/
structure Held (q : Request) (s u : State) : Prop where
  store : u.store = s.store
  settings : u.settings = s.settings
  bulk : u.bulk = s.bulk
  port : u.port = s.port
  pending : u.pending = s.pending
  notice : u.rings.notice = s.rings.notice
  noticeIndex : u.rings.noticeIndex = s.rings.noticeIndex
  reserved : u.rings.reserved = s.rings.reserved
  mem : u.hub.mem = hubStores s.hub.mem q.hub.writes
  answers : u.hub.answers = q.hub.answers
  engine : u.engine = { s.engine with stopPending := q.stopEngine }
  ring : ringAt u q.ring.val =
    { ringAt s q.ring.val with stopPending := (ringAt s q.ring.val).stopPending || q.stopRing }
  others : ∀ k, k ≠ q.ring.val → ringAt u k = ringAt s k
  counts : ∀ r ∈ requesters, passOverOf u r = countAfterGrant s (.ring q.ring.val) r

/-- R159, R178: a STOP of the ring or of the engine written while the request is in hand sets its
stop-pending flag, and changes nothing else. -/
theorem meanwhile_eq {q : Request} {u : State} (hrun : u.engine.state = .running)
    (hp : u.engine.stopPending = false) (hin : u.rings.inHand = some q.ring.val)
    (hs : (ringAt u q.ring.val).state = .ready) :
    (meanwhile q u).engine = { u.engine with stopPending := q.stopEngine } ∧
      ringAt (meanwhile q u) q.ring.val =
        { ringAt u q.ring.val with stopPending := (ringAt u q.ring.val).stopPending || q.stopRing } ∧
      (∀ k, k ≠ q.ring.val → ringAt (meanwhile q u) k = ringAt u k) ∧ Still u (meanwhile q u) ∧
      (meanwhile q u).store = u.store ∧ (meanwhile q u).port = u.port ∧ (meanwhile q u).hub = u.hub ∧
      (meanwhile q u).rings.noticeIndex = u.rings.noticeIndex := by
  have hn : q.ring.val < requestRings := q.ring.isLt
  have hring : stopRing u q.ring.val = setRing u q.ring.val { ringAt u q.ring.val with stopPending := true } := by
    simp [stopRing, hn, hs, hin]
  have he : ∀ v : State, v.engine = u.engine → v.rings.inHand = some q.ring.val →
      stopEngine v = { v with engine := { u.engine with stopPending := true } } := by
    intro v hv hi
    simp [stopEngine, hv, hrun, hp, hi]
  have hpp : u.engine = { u.engine with stopPending := false } := by rw [← hp]
  cases hsr : q.stopRing <;> cases hse : q.stopEngine
  · have hw : meanwhile q u = u := by simp [meanwhile, hsr, hse]
    rw [hw]
    exact ⟨hpp, by rw [Bool.or_false], fun _ _ => rfl, Still.refl u, rfl, rfl, rfl, rfl⟩
  · have hw : meanwhile q u = { u with engine := { u.engine with stopPending := true } } := by
      simp [meanwhile, hsr, hse, he u rfl hin]
    rw [hw]
    exact ⟨rfl, by rw [Bool.or_false]; rfl, fun _ _ => rfl,
      ⟨rfl, rfl, rfl, rfl, rfl, rfl, rfl, rfl, rfl, rfl⟩, rfl, rfl, rfl, rfl⟩
  · have hw : meanwhile q u = setRing u q.ring.val { ringAt u q.ring.val with stopPending := true } := by
      simp [meanwhile, hsr, hse, hring]
    rw [hw]
    refine ⟨hpp, by rw [Bool.or_true]; exact ringAt_setRing_same _ _ _, fun k hk => ?_, still_setRing _ _ _,
      rfl, rfl, rfl, rfl⟩
    rw [ringAt_setRing, if_neg hk]
  · have hw : meanwhile q u =
        { setRing u q.ring.val { ringAt u q.ring.val with stopPending := true } with
          engine := { u.engine with stopPending := true } } := by
      simp only [meanwhile, hsr, hse, if_true, hring]
      exact he _ (setRing_engine _ _ _) hin
    rw [hw]
    refine ⟨rfl, by rw [Bool.or_true]; exact ringAt_setRing_same _ _ _, fun k hk => ?_,
      ⟨rfl, rfl, rfl, rfl, rfl, rfl, rfl, rfl, rfl, rfl⟩, rfl, rfl, rfl, rfl⟩
    change ringAt (setRing _ _ _) k = _
    rw [ringAt_setRing, if_neg hk]

theorem grantRing_held {q : Request} {s : State} (h : granted q s = true) : Held q s (grantRing q s) := by
  obtain ⟨hr, hp, hs⟩ := granted_ready h
  obtain ⟨p, hc, hcount⟩ := chargeGrant_eq (beginCommand s q.hub) (.ring q.ring.val)
  have hg : grantRing q s =
      meanwhile q { withCounts (beginCommand s q.hub) p with rings.inHand := some q.ring.val } := by
    simp only [grantRing, hc]
  have hm := meanwhile_eq (q := q)
    (u := { withCounts (beginCommand s q.hub) p with rings.inHand := some q.ring.val }) hr hp rfl hs
  rw [← hg] at hm
  obtain ⟨h1, h2, h3, h4, h5, h6, h7, h8⟩ := hm
  refine ⟨h5, h4.settings, h4.bulk, h6, h4.pending, h4.notice, h8, h4.reserved, ?_, ?_, h1, h2, h3, ?_⟩
  · rw [h7]; rfl
  · rw [h7]; rfl
  · intro r hr
    have := hcount r hr
    rw [passOverOf, h4.passOver]
    exact this

/-- A look reads hub memory, the ring's places and indexes, and the reserved slot, and nothing else. -/
theorem seenState_congr {s t : State} {n : Nat} (hm : t.hub.mem = s.hub.mem)
    (hr : t.rings.reserved = s.rings.reserved) (h1 : (ringAt t n).request = (ringAt s n).request)
    (h2 : (ringAt t n).head = (ringAt s n).head) (h3 : (ringAt t n).response = (ringAt s n).response)
    (h4 : (ringAt t n).responseIndex = (ringAt s n).responseIndex) : seenState t n = seenState s n := by
  unfold seenState headAddress responseAddress slotReserved
  rw [hm, hr, h1, h2, h3, h4]

/-- The end of a grant sets the state of its ring and clears its stop-pending flag; nothing else
changes. -/
theorem lookAgain_ends {s : State} (h : AllOk s.hub.answers) (n : Nat) :
    Still s (lookAgain s n) ∧ (lookAgain s n).store = s.store ∧ (lookAgain s n).engine = s.engine ∧
      boardOf (lookAgain s n) = boardOf s ∧
      ringAt (lookAgain s n) n =
        { ringAt s n with
          state := if (ringAt s n).stopPending || s.engine.stopPending then .off else seenState s n
          stopPending := false } ∧
      (∀ k, k ≠ n → ringAt (lookAgain s n) k = ringAt s k) ∧ AllOk (lookAgain s n).hub.answers := by
  obtain ⟨l, hl, he⟩ := lookAgain_clean h n
  rw [he]
  split
  · rename_i hs
    exact ⟨still_setRing _ _ _, rfl, rfl, rfl, ringAt_setRing_same _ _ _,
      fun k hk => by rw [turnOff, ringAt_setRing, if_neg hk], h⟩
  · rename_i hs
    simp only [Bool.or_eq_true, not_or, Bool.not_eq_true] at hs
    refine ⟨(still_withAnswers s l).trans (still_setRing _ _ _), rfl, rfl, rfl, ?_,
      fun k hk => by rw [setRingState, ringAt_setRing, if_neg hk, ringAt_withAnswers], hl⟩
    rw [setRingState, ringAt_setRing_same, ringAt_withAnswers]
    rw [← hs.1]

theorem descriptorCheck_congr {s t : State} (h : t.settings = s.settings) (code : Byte) (q : Request) :
    descriptorCheck t code q = descriptorCheck s code q := by
  unfold descriptorCheck
  rw [h]

/-- R160 steps 1 to 4: on a clean bus a descriptor handed to the part is read and written back, and the head
index advances. -/
theorem takeDescriptor_owned {u : State} (h : AllOk u.hub.answers) {q : Request} (ho : owned q = true)
    (code : Byte) (rule : State → Request → Handled) :
    takeDescriptor code rule q u = carryOut code rule q
      (setRing
        (withHub u
          (memWrite (memWrite u.hub.mem (headAddress u q.ring.val) (descriptorBytes code q))
            (headAddress u q.ring.val) (writtenBackBytes code q)) u.hub.answers.tail.tail) q.ring.val
        { ringAt u q.ring.val with
          head := advance (ringAt u q.ring.val).request (ringAt u q.ring.val).head }) := by
  have e1 := busRead_clean
    (s := withHub u (memWrite u.hub.mem (headAddress u q.ring.val) (descriptorBytes code q)) u.hub.answers) h
    (headAddress u q.ring.val) 32
  have e2 := busWrite_clean
    (s := withHub u (memWrite u.hub.mem (headAddress u q.ring.val) (descriptorBytes code q)) u.hub.answers.tail)
    h.tail (headAddress u q.ring.val) (writtenBackBytes code q) false
  unfold takeDescriptor
  simp only [headAddress, withHub, withAnswers] at e1 e2 ⊢
  simp only [e1, ho, if_true, e2]
  rfl

/-- The state in which the rule of a code begins: the request taken, the head index advanced. -/
structure RuleState (code : Byte) (q : Request) (s u : State) : Prop where
  store : u.store = s.store
  bulk : u.bulk = s.bulk
  settings : u.settings = s.settings
  mem : u.hub.mem = takenMem code q s
  answers : AllOk u.hub.answers
  port : u.port = s.port
  pending : u.pending = s.pending
  notice : u.rings.notice = s.rings.notice
  noticeIndex : u.rings.noticeIndex = s.rings.noticeIndex
  reserved : u.rings.reserved = s.rings.reserved
  engine : u.engine = { s.engine with stopPending := q.stopEngine }
  ring : ringAt u q.ring.val =
    { ringAt s q.ring.val with
      stopPending := (ringAt s q.ring.val).stopPending || q.stopRing
      head := advance (ringAt s q.ring.val).request (ringAt s q.ring.val).head }
  others : ∀ k, k ≠ q.ring.val → ringAt u k = ringAt s k
  counts : ∀ r ∈ requesters, passOverOf u r = countAfterGrant s (.ring q.ring.val) r

/-- R160: on a clean bus a request that is handed to the part is taken, and its checks and its rule begin. -/
theorem takeDescriptor_taken {code : Byte} {q : Request} {s : State} (hg : granted q s = true)
    (ho : owned q = true) (hb : CleanBus q.hub) (rule : State → Request → Handled) :
    ∃ u, RuleState code q s u ∧ takeDescriptor code rule q (grantRing q s) = carryOut code rule q u := by
  have hh := grantRing_held hg
  generalize grantRing q s = g at hh
  have hc : AllOk g.hub.answers := by rw [hh.answers]; exact hb
  have hreq : (ringAt g q.ring.val).request = (ringAt s q.ring.val).request := by rw [hh.ring]
  have hhead : (ringAt g q.ring.val).head = (ringAt s q.ring.val).head := by rw [hh.ring]
  have ha : headAddress g q.ring.val = headAddress s q.ring.val := by
    simp only [headAddress, hreq, hhead]
  refine ⟨_, ?_, takeDescriptor_owned hc ho code rule⟩
  refine ⟨hh.store, hh.bulk, hh.settings, ?_, hc.tail.tail, hh.port, hh.pending, hh.notice, hh.noticeIndex,
    hh.reserved, hh.engine, ?_, fun k hk => ?_, hh.counts⟩
  · change memWrite _ _ _ = _
    rw [ha, hh.mem, takenMem]
  · rw [ringAt_setRing_same, hreq, hhead, hh.ring]
  · rw [ringAt_setRing, if_neg hk, ringAt_withHub, hh.others k hk]

/-- R160, R161: on a clean bus a request that is handed to the part and passes R161 is carried out by the
rule of its code. -/
theorem takeDescriptor_clean {code : Byte} {q : Request} {s : State} (h : Takes code q s)
    (rule : State → Request → Handled) :
    ∃ u, RuleState code q s u ∧ takeDescriptor code rule q (grantRing q s) =
      (match rule u q with
        | .answered s r l => answer s q.ring.val code q r l
        | .reserved s => reserveSlot s q.ring.val q) := by
  obtain ⟨hg, ho, hb, hd⟩ := h
  obtain ⟨u, hu, ht⟩ := takeDescriptor_taken (code := code) hg ho hb rule
  refine ⟨u, hu, ?_⟩
  rw [ht]
  unfold carryOut
  have e := (descriptorCheck_congr hu.settings code q).trans hd
  cases rule u q <;> simp only [e]

/-! ## The whole grant -/

/-- The end of a command in which no reset is taken: nothing in hand, the bus's answers spent, counts settled,
nothing else changed. -/
structure Ended (s t : State) : Prop where
  store : t.store = s.store
  bulk : t.bulk = s.bulk
  settings : t.settings = s.settings
  port : t.port = s.port
  pending : t.pending = s.pending
  engine : t.engine = s.engine
  mem : t.hub.mem = s.hub.mem
  answers : t.hub.answers = []
  notice : t.rings.notice = s.rings.notice
  noticeIndex : t.rings.noticeIndex = s.rings.noticeIndex
  reserved : t.rings.reserved = s.rings.reserved
  inHand : t.rings.inHand = none
  rings : ∀ k, ringAt t k = ringAt s k
  counts : ∀ r ∈ requesters, passOverOf t r = if requesting t r then passOverOf s r else 0

theorem endCommand_ended {s : State} (h : AllOk s.hub.answers) : Ended s (endCommand s) := by
  obtain ⟨p, he, hc⟩ := settleCounts_eq
    { s with rings.inHand := none, hub.answers := [] }
  unfold endCommand
  rw [resetTaken_clean h, if_neg Bool.false_ne_true, he]
  refine ⟨rfl, rfl, rfl, rfl, rfl, rfl, rfl, rfl, rfl, rfl, rfl, rfl, fun _ => rfl, fun r hr => ?_⟩
  rw [requesting_withCounts]
  exact hc r hr

/-- The whole of a grant whose answer begins with the records `st`. -/
theorem grantRequest_answers {code : Byte} {q : Request} {s u : State} {rule : State → Request → Handled}
    {st : Store} {a : List BusAnswer} {r : Reply} {l : List Notice} (hg : granted q s = true)
    (hu : RuleState code q s u) (ha : AllOk a)
    (ht : takeDescriptor code rule q (grantRing q s) =
      answer { u with store := st, hub.answers := a } q.ring.val code q r l) :
    (grantRequest code rule q s).store = st ∧ Answered code q s (grantRequest code rule q s) r l := by
  have hw : AllOk ({ u with store := st, hub.answers := a } : State).hub.answers := ha
  obtain ⟨m, hm, hans⟩ := answer_clean hw q.ring.val code q r l
  have hans' := ht.trans hans
  clear ht hans
  have hring : ∀ k, ringAt ({ u with store := st, hub.answers := a } : State) k = ringAt u k := fun _ => rfl
  have hresp : respond { u with store := st, hub.answers := a } q.ring.val code q r = answeredMem code q s r := by
    unfold respond answeredMem responseAddress
    rw [hring, hu.ring, ← hu.mem]
  simp only [hresp] at hans'
  generalize hb : l.foldl (post ({ u with store := st, hub.answers := a } : State).rings.notice
    ({ u with store := st, hub.answers := a } : State).store.timer.clock) _ = b at hans'
  generalize hx : answeredState { u with store := st, hub.answers := a } q.ring.val b m = x at hans'
  have hxans : AllOk x.hub.answers := by rw [← hx]; exact hm
  obtain ⟨l1, l2, l3, l4, l5, l6, l7⟩ := lookAgain_ends hxans q.ring.val
  have he := endCommand_ended l7
  have hgr : grantRequest code rule q s = endCommand (lookAgain x q.ring.val) := by
    unfold grantRequest
    rw [if_pos hg, hans']
  rw [hgr]
  have hxstill : Still u x := by rw [← hx]; exact ⟨rfl, rfl, rfl, rfl, rfl, rfl, rfl, rfl, rfl, rfl⟩
  have hxstore : x.store = st := by rw [← hx]; rfl
  have hxengine : x.engine = u.engine := by rw [← hx]; rfl
  have hxboard : boardOf x = b := by rw [← hx]; rfl
  have hxring : ringAt x q.ring.val = { ringAt u q.ring.val with
      responseIndex := advance (ringAt u q.ring.val).response (ringAt u q.ring.val).responseIndex } := by
    rw [← hx]; exact ringAt_setRing_same _ _ _
  have hxothers : ∀ k, k ≠ q.ring.val → ringAt x k = ringAt u k := by
    intro k hk
    rw [← hx]
    change ringAt (setRing _ _ _) k = _
    rw [ringAt_setRing, if_neg hk, hring]
  clear hx hans' hgr
  generalize lookAgain x q.ring.val = y at *
  generalize endCommand y = t at *
  have hboard : boardOf t = b := by
    rw [← hxboard, ← l4]
    unfold boardOf
    rw [he.mem, he.noticeIndex, he.port]
  have hstore : t.store = st := by rw [he.store, l2, hxstore]
  refine ⟨hstore, ⟨?_, ⟨?_, ?_, ?_, ?_, ?_, ?_, ?_⟩, ?_, ?_, ?_, ⟨?_, ?_, ?_, ?_, ?_, ?_, he.inHand, he.answers, ?_⟩, ?_⟩⟩
  · rw [hboard, ← hb, hstore]
    simp only [hu.notice, hu.noticeIndex, hu.port]
  · rw [he.rings, l5, hxring, hu.ring]
  · rw [he.rings, l5, hxring, hu.ring]
  · rw [he.rings, l5, hxring, hu.ring]
  · rw [he.rings, l5, hxring, hu.ring]
  · rw [he.rings, l5]
  · have hseen : seenState t q.ring.val = seenState x q.ring.val := by
      have hmem : boardOf t = boardOf x := by rw [hboard, hxboard]
      refine seenState_congr (congrArg Board.mem hmem) ?_ ?_ ?_ ?_ ?_
      · rw [he.reserved, l1.reserved]
      all_goals rw [he.rings, l5]
    rw [hseen, he.rings, l5]
    simp only [hxring, hxengine, hu.ring, hu.engine]
  · intro k hk
    rw [he.rings, l6 k hk, hxothers k hk, hu.others k hk]
  · rw [he.engine, l3, hxengine, hu.engine]
  · rw [he.bulk, l1.bulk, hxstill.bulk, hu.bulk]
  · rw [he.reserved, l1.reserved, hxstill.reserved, hu.reserved]
  · rw [he.settings, l1.settings, hxstill.settings, hu.settings]
  · rw [he.port, l1.index, hxstill.index, hu.port]
  · rw [he.port, l1.setupAddress, hxstill.setupAddress, hu.port]
  · rw [he.port, l1.enables, hxstill.enables, hu.port]
  · rw [he.port, l1.dataOut, hxstill.dataOut, hu.port]
  · rw [he.notice, l1.notice, hxstill.notice, hu.notice]
  · rw [he.pending, l1.pending, hxstill.pending, hu.pending]
  · intro g hg
    rw [he.counts g hg]
    have : passOverOf y g = countAfterGrant s (.ring q.ring.val) g := by
      unfold passOverOf
      rw [l1.passOver, hxstill.passOver]
      exact hu.counts g hg
    rw [this]

/-- The whole of a grant that takes a request: when the rule of its code answers `r` with the records `st`
and the notices `l`, the records are `st`, and the rest is as `Answered` says. -/
theorem grantRequest_answered {code : Byte} {q : Request} {s : State} (h : Takes code q s)
    {rule : State → Request → Handled} {st : Store} {r : Reply} {l : List Notice}
    (hr : ∀ u, RuleState code q s u →
      ∃ a, AllOk a ∧ rule u q = .answered { u with store := st, hub.answers := a } r l) :
    (grantRequest code rule q s).store = st ∧ Answered code q s (grantRequest code rule q s) r l := by
  obtain ⟨u, hu, ht⟩ := takeDescriptor_clean h rule
  obtain ⟨a, ha, hrule⟩ := hr u hu
  rw [hrule] at ht
  exact grantRequest_answers h.1 hu ha ht

/-- R161: the whole of a grant whose descriptor fails a check: the refusal is answered, the records stand. -/
theorem grantRequest_refused {code : Byte} {q : Request} {s : State} (hg : granted q s = true)
    (ho : owned q = true) (hb : CleanBus q.hub) {o : OutcomeCode} (hd : descriptorCheck s code q = some o)
    (rule : State → Request → Handled) :
    (grantRequest code rule q s).store = s.store ∧
      Answered code q s (grantRequest code rule q s) { outcome := o } [] := by
  obtain ⟨u, hu, ht⟩ := takeDescriptor_taken (code := code) hg ho hb rule
  refine grantRequest_answers hg hu hu.answers ?_
  rw [ht]
  unfold carryOut
  rw [descriptorCheck_congr hu.settings code q, hd]
  rw [← hu.store]

/-- The whole of a grant that takes a request whose rule is over the records. -/
theorem grantRequest_work {code : Byte} {q : Request} {s : State} (h : Takes code q s)
    (rule : Work → Request → Reply × Work) :
    (grantRequest code (workRule rule) q s).store = (rule (begun s) q).2.settle.store ∧
      Answered code q s (grantRequest code (workRule rule) q s) (rule (begun s) q).1
        (rule (begun s) q).2.settle.notices := by
  refine grantRequest_answered h (fun u hu => ⟨u.hub.answers, hu.answers, ?_⟩)
  unfold workRule
  rw [hu.settings, hu.store]
  rfl

/-! ## A grant to the Timer Unit -/

/-- The whole of a grant to the Timer Unit (R150): the records and notices are those of the rule of the
entry's kind, begun with the head taken; the rest is as `Elapsed` says. -/
theorem grantExpiry_elapsed {hub : HubInput} (hb : CleanBus hub) (s : State) (rule : Work → Work) :
    (grantExpiry hub rule s).store = (rule ⟨s.settings, headTaken s.store, [], []⟩).settle.store ∧
      Elapsed hub s (grantExpiry hub rule s)
        (rule ⟨s.settings, headTaken s.store, [], []⟩).settle.notices := by
  obtain ⟨p, hc, hcount⟩ := chargeGrant_eq (beginCommand s hub) .timer
  generalize hw : (rule ⟨s.settings, headTaken s.store, [], []⟩).settle = w
  have hclean : AllOk ({ withCounts (beginCommand s hub) p with store := w.store } : State).hub.answers := hb
  obtain ⟨l, hl, hn⟩ := writeNotices_clean w.notices hclean
  have hl' : AllOk (writeNotices
      { withCounts (beginCommand s hub) p with store := w.store } w.notices).hub.answers := by
    rw [hn]; exact hl
  have he := endCommand_ended hl'
  have hg : grantExpiry hub rule s =
      endCommand (writeNotices { withCounts (beginCommand s hub) p with store := w.store } w.notices) := by
    rw [← hw]
    unfold grantExpiry
    rw [hc]
    rfl
  rw [hg]
  generalize endCommand _ = t at he
  rw [hn] at he
  have hs : t.store = w.store := he.store
  refine ⟨hs, ⟨?_, fun k => he.rings k, he.engine, he.bulk, he.reserved,
    ⟨he.settings, ?_, ?_, ?_, ?_, he.notice, he.inHand, he.answers, he.pending⟩, ?_⟩⟩
  · rw [hs]
    unfold boardOf
    rw [he.mem, he.noticeIndex, he.port]
    rfl
  · rw [he.port]; rfl
  · rw [he.port]; rfl
  · rw [he.port]; rfl
  · rw [he.port]; rfl
  · intro g hg
    rw [he.counts g hg]
    have : readAt 0 p g.priority = countAfterGrant s .timer g := hcount g hg
    rw [← this]
    rfl

end Sys2Proof.Laws
end

