-- ==== Sys2Proof/Laws/Work.lean ====
section
/-! SUPPORT. What the end of a piece of work can do (R13, R138): the census and the last indicator word of
the stations it concerns, and nothing else. -/

namespace Sys2Proof.Laws

open Sys2Proof Sys2Proof.Machine

/-- Two stores that differ in their station tables alone. -/
structure ButStations (st st' : Store) : Prop where
  bikes : st'.fleet.bikes = st.fleet.bikes
  docks : st'.fleet.docks = st.fleet.docks
  held : st'.fleet.reservationsHeld = st.fleet.reservationsHeld
  cards : st'.cards = st.cards
  hires : st'.hires = st.hires
  tariff : st'.tariff = st.tariff
  faults : st'.faults = st.faults
  vans : st'.vans = st.vans
  timer : st'.timer = st.timer

theorem ButStations.refl (st : Store) : ButStations st st := ⟨rfl, rfl, rfl, rfl, rfl, rfl, rfl, rfl, rfl⟩

theorem ButStations.trans {a b c : Store} (h : ButStations a b) (k : ButStations b c) : ButStations a c :=
  ⟨k.bikes.trans h.bikes, k.docks.trans h.docks, k.held.trans h.held, k.cards.trans h.cards,
    k.hires.trans h.hires, k.tariff.trans h.tariff, k.faults.trans h.faults, k.vans.trans h.vans,
    k.timer.trans h.timer⟩

theorem butStations_putStation (st : Store) (i : Nat) (r : Station) : ButStations st (putStation st i r) :=
  ⟨rfl, rfl, rfl, rfl, rfl, rfl, rfl, rfl, rfl⟩

theorem ButStations.bikeAt {a b : Store} (h : ButStations a b) (k : Nat) :
    Machine.bikeAt b k = Machine.bikeAt a k := by unfold Machine.bikeAt; rw [h.bikes]

theorem ButStations.dockAt {a b : Store} (h : ButStations a b) (k : Nat) :
    Machine.dockAt b k = Machine.dockAt a k := by unfold Machine.dockAt; rw [h.docks]

/-- The census reads bikes and docks alone. -/
theorem ButStations.deriveCensus {a b : Store} (h : ButStations a b) (first count : Nat) :
    Machine.deriveCensus b first count = Machine.deriveCensus a first count := by
  have hd : Machine.dockAt b = Machine.dockAt a := funext h.dockAt
  have hb : Machine.bikeAt b = Machine.bikeAt a := funext h.bikeAt
  have hu : usable b = usable a := by
    funext k
    unfold usable
    have hp : placeInService b = placeInService a := by
      funext p
      unfold placeInService
      rw [hd]
    rw [hb, hp]
  have h1 : countsU b = countsU a := by funext r; unfold countsU; rw [hu]
  have h2 : countsF b = countsF a := by funext r; unfold countsF; rw [hb, hu]
  have h3 : countsH b = countsH a := by funext r; unfold countsH; rw [hb]
  unfold Machine.deriveCensus
  rw [hd, h1, h2, h3]

theorem indicatorWord_lastWord (r : Station) (x : BitVec 16) :
    indicatorWord { r with lastWord := x } = indicatorWord r := rfl

/-- What the indicator comparison leaves (R138). -/
theorem compareIndicator_eq (w : Work) (i : Nat) :
    (w.compareIndicator i).set = w.set ∧ (w.compareIndicator i).touched = w.touched ∧
      ButStations w.store (w.compareIndicator i).store ∧
      (∀ j, stationAt (w.compareIndicator i).store j =
        if j = i then reworded (stationAt w.store i) else stationAt w.store j) ∧
      (w.compareIndicator i).notices =
        w.notices ++ (wordNotice w.store.timer.clock i (stationAt w.store i)).toList := by
  unfold Work.compareIndicator
  by_cases h : indicatorWord (stationAt w.store i) = (stationAt w.store i).lastWord
  · rw [if_pos h]
    refine ⟨rfl, rfl, ButStations.refl _, fun j => ?_, by simp [wordNotice, h]⟩
    split
    · rename_i hj
      rw [hj, reworded, h]
    · rfl
  · rw [if_neg h]
    exact ⟨rfl, rfl, butStations_putStation _ _ _, fun j => readAt_writeAt _ _ _ _ _,
      by simp [wordNotice, h, Work.raiseNotice]⟩

/-- What the end of a work leaves of one station (R13, R138). -/
theorem settleStation_eq (w : Work) (i : Nat) :
    (w.settleStation i).set = w.set ∧ (w.settleStation i).touched = w.touched ∧
      ButStations w.store (w.settleStation i).store ∧
      (∀ j, stationAt (w.settleStation i).store j =
        if j = i ∧ (stationAt w.store i).isDefined = true ∧ i ∈ w.touched then
          refreshed w.store (stationAt w.store i)
        else stationAt w.store j) ∧
      (w.settleStation i).notices = w.notices ++
        (if (stationAt w.store i).isDefined = true ∧ i ∈ w.touched then
          wordNotice w.store.timer.clock i (recounted w.store (stationAt w.store i)) else none).toList := by
  unfold Work.settleStation
  by_cases h : ((stationAt w.store i).isDefined && w.touched.contains i) = true
  · rw [if_pos h]
    have h' : (stationAt w.store i).isDefined = true ∧ i ∈ w.touched := by simpa using h
    obtain ⟨h1, h2, h3, h4, h5⟩ := compareIndicator_eq
      { w with store := putStation w.store i { stationAt w.store i with
          census := deriveCensus w.store (stationAt w.store i).firstDock (stationAt w.store i).dockCount } } i
    refine ⟨h1, h2, (butStations_putStation _ _ _).trans h3, fun j => ?_, ?_⟩
    · rw [h4 j]
      by_cases hj : j = i
      · subst hj
        rw [if_pos rfl, if_pos ⟨rfl, h'⟩]
        simp only [stationAt_putStation_same, refreshed, recounted]
      · rw [if_neg hj, if_neg (fun hc => hj hc.1), stationAt_putStation, if_neg hj]
    · rw [h5, if_pos h']
      simp only [stationAt_putStation_same, recounted]
      rfl
  · rw [if_neg h]
    have h' : ¬ ((stationAt w.store i).isDefined = true ∧ i ∈ w.touched) := by simpa using h
    exact ⟨rfl, rfl, ButStations.refl _, fun j => by rw [if_neg (fun hc => h' hc.2)], by simp [if_neg h']⟩

theorem filterMap_agrees {α β : Type} {f g : α → Option β} {l : List α} (h : ∀ x ∈ l, f x = g x) :
    l.filterMap f = l.filterMap g := by
  induction l with
  | nil => rfl
  | cons a l ih =>
    rw [List.filterMap_cons, List.filterMap_cons, h a (by simp), ih (fun x hx => h x (by simp [hx]))]

theorem settleFold_eq (l : List Nat) (hl : l.Nodup) (w : Work) :
    let w' := l.foldl Work.settleStation w
    w'.set = w.set ∧ w'.touched = w.touched ∧ ButStations w.store w'.store ∧
      (∀ j, stationAt w'.store j =
        if j ∈ l ∧ (stationAt w.store j).isDefined = true ∧ j ∈ w.touched then
          refreshed w.store (stationAt w.store j)
        else stationAt w.store j) ∧
      w'.notices = w.notices ++ l.filterMap (fun i =>
        if (stationAt w.store i).isDefined = true ∧ i ∈ w.touched then
          wordNotice w.store.timer.clock i (recounted w.store (stationAt w.store i))
        else none) := by
  induction l generalizing w with
  | nil => exact ⟨rfl, rfl, ButStations.refl _, fun j => by simp, by simp⟩
  | cons i l ih =>
    obtain ⟨a1, a2, a3, a4, a5⟩ := settleStation_eq w i
    obtain ⟨hi, hl⟩ := List.nodup_cons.mp hl
    obtain ⟨b1, b2, b3, b4, b5⟩ := ih hl (w.settleStation i)
    refine ⟨b1.trans a1, b2.trans a2, a3.trans b3, fun j => ?_, ?_⟩
    · rw [List.foldl_cons, b4 j]
      rw [a2]
      by_cases hj : j = i
      · subst hj
        have hst := a4 j
        have hn : ¬ (j ∈ l ∧ (stationAt (w.settleStation j).store j).isDefined = true ∧ j ∈ w.touched) :=
          fun hc => hi hc.1
        rw [if_neg hn, hst]
        simp
      · have hst := a4 j
        rw [if_neg (fun hc => hj hc.1)] at hst
        rw [hst]
        have hr : refreshed (w.settleStation i).store (stationAt w.store j) =
            refreshed w.store (stationAt w.store j) := by
          unfold refreshed recounted
          rw [a3.deriveCensus]
        rw [hr]
        simp [hj]
    · rw [List.foldl_cons, b5, a5, List.append_assoc, List.filterMap_cons]
      have hrest : ∀ j ∈ l,
          (if (stationAt (w.settleStation i).store j).isDefined = true ∧ j ∈ (w.settleStation i).touched then
            wordNotice (w.settleStation i).store.timer.clock j
              (recounted (w.settleStation i).store (stationAt (w.settleStation i).store j))
          else none) =
          (if (stationAt w.store j).isDefined = true ∧ j ∈ w.touched then
            wordNotice w.store.timer.clock j (recounted w.store (stationAt w.store j))
          else none) := by
        intro j hj
        have hji : j ≠ i := fun hc => hi (hc ▸ hj)
        have hst := a4 j
        rw [if_neg (fun hc => hji hc.1)] at hst
        have hr : recounted (w.settleStation i).store (stationAt w.store j) =
            recounted w.store (stationAt w.store j) := by
          unfold recounted
          rw [a3.deriveCensus]
        rw [hst, a2, a3.timer, hr]
      rw [filterMap_agrees hrest]
      generalize (if (stationAt w.store i).isDefined = true ∧ i ∈ w.touched then
        wordNotice w.store.timer.clock i (recounted w.store (stationAt w.store i)) else none) = o
      cases o <;> simp

/-- R13, R138: the end of a work changes station records alone. -/
theorem settle_butStations (w : Work) : ButStations w.store w.settle.store :=
  (settleFold_eq _ List.nodup_range w).2.2.1

/-- R13, R138: a defined station that the work concerns gets its derived census and its indicator word;
every other station stands. -/
theorem settle_station (w : Work) (j : Nat) :
    stationAt w.settle.store j =
      if j < Config.stations ∧ (stationAt w.store j).isDefined = true ∧ j ∈ w.touched then
        refreshed w.store (stationAt w.store j)
      else stationAt w.store j := by
  have := (settleFold_eq (List.range Config.stations) List.nodup_range w).2.2.2.1 j
  simpa [Work.settle] using this

/-- R138, R139: the notices that the end of a work adds: the INDICATOR notices of the concerned stations whose
word changes, behind the others. -/
theorem settle_notices (w : Work) :
    w.settle.notices = w.notices ++ changedIndicators w.settle.store (stationAt w.store) w.touched := by
  have h := (settleFold_eq (List.range Config.stations) List.nodup_range w).2.2.2.2
  have hb := settle_butStations w
  have hr : recounted w.settle.store = recounted w.store := by
    funext r
    unfold recounted
    rw [hb.deriveCensus]
  unfold changedIndicators
  rw [hr, hb.timer]
  exact h

/-- R13, R138: the station records at the end of a work. -/
theorem settle_settles (w : Work) : Settles w.settle.store (stationAt w.store) w.touched := by
  intro j
  have hb := settle_butStations w
  have hr : refreshed w.settle.store (stationAt w.store j) = refreshed w.store (stationAt w.store j) := by
    unfold refreshed recounted
    rw [hb.deriveCensus]
  rw [hr]
  exact settle_station w j

theorem settleStation_congr (w w' : Work) (hs : w'.store = w.store) (hn : w'.notices = w.notices)
    (ht : ∀ i, i ∈ w'.touched ↔ i ∈ w.touched) (i : Nat) :
    (w'.settleStation i).store = (w.settleStation i).store ∧
      (w'.settleStation i).notices = (w.settleStation i).notices := by
  have hc : w'.touched.contains i = w.touched.contains i := by
    rw [Bool.eq_iff_iff]
    simpa using ht i
  unfold Work.settleStation
  rw [hs, hc]
  dsimp only
  split
  · unfold Work.compareIndicator
    dsimp only
    split
    · exact ⟨rfl, hn⟩
    · exact ⟨rfl, by simp [hn]⟩
  · exact ⟨hs, hn⟩

/-- The end of a work reads which stations are concerned, not how often or in what order. -/
theorem settle_congr {w w' : Work} (hs : w'.store = w.store) (hn : w'.notices = w.notices)
    (ht : ∀ i, i ∈ w'.touched ↔ i ∈ w.touched) :
    w'.settle.store = w.settle.store ∧ w'.settle.notices = w.settle.notices := by
  unfold Work.settle
  generalize List.range Config.stations = l
  induction l generalizing w w' with
  | nil => exact ⟨hs, hn⟩
  | cons i l ih =>
    obtain ⟨h1, h2⟩ := settleStation_congr w w' hs hn ht i
    refine ih h1 h2 (fun j => ?_)
    rw [(settleStation_eq w' i).2.1, (settleStation_eq w i).2.1]
    exact ht j

/-- The end of a work that concerns no station changes nothing. -/
theorem settle_untouched {w : Work} (h : w.touched = []) : w.settle = w := by
  unfold Work.settle
  generalize List.range Config.stations = l
  induction l with
  | nil => rfl
  | cons i l ih =>
    have : w.settleStation i = w := by
      unfold Work.settleStation
      simp [h]
    rw [List.foldl_cons, this, ih]

end Sys2Proof.Laws
end

