-- ==== Sys2Proof/Laws/Complete.lean ====
section
/-! SUPPORT. From the rule of a command to the whole command: a request or an expiry whose rule leaves a known
work completes as `Completes`, `CompletesAt`, `Lapses` or `LapsesAt` say. -/

namespace Sys2Proof.Laws

open Sys2Proof Sys2Proof.Machine

/-- A request whose rule leaves the work `w`. -/
theorem completesAt_of {c : Instr} {code : Byte} {q : Request} {s : State}
    {rule : Work → Request → Reply × Work} {r : Reply} {w : Work} {first : List Notice}
    {base : Nat → Station} {concerned : List Nat} {P : Store → Prop} (h : Takes code q s)
    (he : exec c s = .next (grantRequest code (workRule rule) q s)) (hr : rule (begun s) q = (r, w))
    (hn : w.notices = first) (hb : ∀ i, stationAt w.store i = base i)
    (ht : ∀ i, i ∈ w.touched ↔ i ∈ concerned) (hp : ∀ st, ButStations w.store st → P st) :
    CompletesAt c code q s r first base concerned P := by
  obtain ⟨hs, ha⟩ := grantRequest_work h rule
  rw [hr] at hs ha
  obtain ⟨e1, e2⟩ := settle_congr (w := { w with touched := concerned }) (w' := w) rfl rfl ht
  have hbase : stationAt w.store = base := funext hb
  refine ⟨_, he, ?_, ?_, ?_⟩
  · rw [hs]
    have := settle_notices { w with touched := concerned }
    rw [← e1, ← e2, hbase, hn] at this
    rw [← this]
    exact ha
  · rw [hs]
    have := settle_settles { w with touched := concerned }
    rw [← e1, hbase] at this
    exact this
  · rw [hs]
    exact hp _ (settle_butStations w)

/-- A request whose rule leaves the work `w` and concerns no station. -/
theorem completes_of {c : Instr} {code : Byte} {q : Request} {s : State}
    {rule : Work → Request → Reply × Work} {r : Reply} {w : Work} {P : Store → Prop} (h : Takes code q s)
    (he : exec c s = .next (grantRequest code (workRule rule) q s)) (hr : rule (begun s) q = (r, w))
    (ht : w.touched = []) (hp : P w.store) : Completes c code q s r w.notices P := by
  obtain ⟨hs, ha⟩ := grantRequest_work h rule
  rw [hr, settle_untouched ht] at hs ha
  exact ⟨_, he, ha, hs ▸ hp⟩

/-- An expiry whose rule leaves the work `w`. -/
theorem lapsesAt_of {c : Instr} {hub : HubInput} {s : State} {rule : Work → Work} {w : Work}
    {first : List Notice} {base : Nat → Station} {concerned : List Nat} {P : Store → Prop}
    (h : CleanBus hub) (he : exec c s = .next (grantExpiry hub rule s))
    (hr : rule ⟨s.settings, headTaken s.store, [], []⟩ = w)
    (hn : w.notices = first) (hb : ∀ i, stationAt w.store i = base i)
    (ht : ∀ i, i ∈ w.touched ↔ i ∈ concerned) (hp : ∀ st, ButStations w.store st → P st) :
    LapsesAt c hub s first base concerned P := by
  obtain ⟨hs, ha⟩ := grantExpiry_elapsed h s rule
  rw [hr] at hs ha
  obtain ⟨e1, e2⟩ := settle_congr (w := { w with touched := concerned }) (w' := w) rfl rfl ht
  have hbase : stationAt w.store = base := funext hb
  refine ⟨_, he, ?_, ?_, ?_⟩
  · rw [hs]
    have := settle_notices { w with touched := concerned }
    rw [← e1, ← e2, hbase, hn] at this
    rw [← this]
    exact ha
  · rw [hs]
    have := settle_settles { w with touched := concerned }
    rw [← e1, hbase] at this
    exact this
  · rw [hs]
    exact hp _ (settle_butStations w)

/-- An expiry whose rule leaves the work `w` and concerns no station. -/
theorem lapses_of {c : Instr} {hub : HubInput} {s : State} {rule : Work → Work} {w : Work}
    {P : Store → Prop} (h : CleanBus hub) (he : exec c s = .next (grantExpiry hub rule s))
    (hr : rule ⟨s.settings, headTaken s.store, [], []⟩ = w) (ht : w.touched = []) (hp : P w.store) :
    Lapses c hub s w.notices P := by
  obtain ⟨hs, ha⟩ := grantExpiry_elapsed h s rule
  rw [hr, settle_untouched ht] at hs ha
  exact ⟨_, he, ha, hs ▸ hp⟩

/-! ## Reading the records once the head of the deadline list has been taken -/

@[simp] theorem bikeAt_headTaken (st : Store) (k : Nat) : bikeAt (headTaken st) k = bikeAt st k := rfl
@[simp] theorem dockAt_headTaken (st : Store) (k : Nat) : dockAt (headTaken st) k = dockAt st k := rfl
@[simp] theorem stationAt_headTaken (st : Store) (k : Nat) : stationAt (headTaken st) k = stationAt st k := rfl
@[simp] theorem cardAt_headTaken (st : Store) (k : Nat) : cardAt (headTaken st) k = cardAt st k := rfl
@[simp] theorem chainAt_headTaken (st : Store) (k : Nat) : chainAt (headTaken st) k = chainAt st k := rfl
@[simp] theorem hireSlotAt_headTaken (st : Store) (k : Nat) :
    hireSlotAt (headTaken st) k = hireSlotAt st k := rfl
@[simp] theorem ticketSlotAt_headTaken (st : Store) (k : Nat) :
    ticketSlotAt (headTaken st) k = ticketSlotAt st k := rfl
@[simp] theorem vanAt_headTaken (st : Store) (k : Nat) : vanAt (headTaken st) k = vanAt st k := rfl
@[simp] theorem headTaken_clock (st : Store) : (headTaken st).timer.clock = st.timer.clock := rfl
@[simp] theorem headTaken_captured (st : Store) : (headTaken st).timer.captured = st.timer.captured := rfl
@[simp] theorem headTaken_deadlines (st : Store) :
    (headTaken st).timer.deadlines = st.timer.deadlines.tail := rfl
@[simp] theorem headTaken_tariff (st : Store) : (headTaken st).tariff = st.tariff := rfl
@[simp] theorem headTaken_waiting (st : Store) : (headTaken st).faults.waiting = st.faults.waiting := rfl
@[simp] theorem headTaken_free (st : Store) : (headTaken st).cards.free = st.cards.free := rfl
@[simp] theorem headTaken_held (st : Store) :
    (headTaken st).fleet.reservationsHeld = st.fleet.reservationsHeld := rfl

/-! ## Stores that differ in their station tables alone -/

/-- The one store is the other with its own station table. -/
theorem ButStations.eq {a b : Store} (h : ButStations a b) : b = { a with fleet.stations := b.fleet.stations } := by
  obtain ⟨h1, h2, h3, h4, h5, h6, h7, h8, h9⟩ := h
  obtain ⟨⟨_, _, _, _⟩, _, _, _, _, _, _⟩ := a
  obtain ⟨⟨_, _, _, _⟩, _, _, _, _, _, _⟩ := b
  simp_all

/-- R112: a van request that passes the checks of every van request goes on to its own rule. -/
theorem crewed_of {s : State} {q : Request} {v : Nat} (h : Crewed s.store q v) (rule : Nat → Reply × Work) :
    crewed (begun s) q rule = rule v := by
  obtain ⟨h1, h2, h3, h4, h5⟩ := h
  have hc : crewAbsent q = false := by simp [crewAbsent, h4]
  have hr : crewRefusal (begun s).store v (param q 1 7) = none := by
    simp [crewRefusal, begun, h3, h5, Nat.not_le.mpr h2]
  simp [crewed, hc, h1, hr]

end Sys2Proof.Laws
end

