-- ==== Sys2Proof/Laws/Memory.lean ====
section
/-! SUPPORT. Hub memory: every operation keeps its one form, a read after a write gives what was written, and a
write leaves every other byte alone. -/

namespace Sys2Proof.Laws

open Sys2Proof Sys2Proof.Machine

theorem memWrite_wf (mem : Table Byte) (a : Nat) (l : List Byte) (h : Memory.wf mem = true) :
    Memory.wf (memWrite mem a l) = true := by
  induction l generalizing mem a with
  | nil => exact h
  | cons b l ih => exact ih _ _ (canonical_writeAt _ _ _ _ h)

theorem hubStores_wf (mem : Table Byte) (l : List Host.Cell) (h : Memory.wf mem = true) :
    Memory.wf (hubStores mem l) = true := by
  induction l generalizing mem with
  | nil => exact h
  | cons c l ih => exact ih _ (canonical_writeAt _ _ _ _ h)

theorem beginCommand_wf (s : State) (hub : HubInput) (h : Memory.wf s.hub.mem = true) :
    Memory.wf (beginCommand s hub).hub.mem = true := hubStores_wf _ _ h

theorem busAnswer_mem (s : State) : (busAnswer s).2.hub.mem = s.hub.mem := by
  unfold busAnswer
  split <;> rfl

theorem busRead_mem (s : State) (a n : Nat) : (busRead s a n).2.hub.mem = s.hub.mem := by
  have h := busAnswer_mem s
  unfold busRead
  split <;> (rename_i he; rw [he] at h; exact h)

theorem storePart_wf (s : State) (a : Nat) (l : List Byte) (p : Bool) (n : Nat)
    (h : Memory.wf s.hub.mem = true) : Memory.wf (storePart s a l p n).hub.mem = true := by
  unfold storePart
  split
  · exact memWrite_wf _ _ _ h
  · exact h

theorem busWrite_wf (s : State) (a : Nat) (l : List Byte) (p : Bool) (h : Memory.wf s.hub.mem = true) :
    Memory.wf (busWrite s a l p).2.hub.mem = true := by
  have hm := busAnswer_mem s
  unfold busWrite
  split
  · rename_i he
    rw [he] at hm
    exact memWrite_wf _ _ _ (by rw [hm]; exact h)
  all_goals
    rename_i he
    rw [he] at hm
    exact storePart_wf _ _ _ _ _ ((congrArg Memory.wf hm).trans h)

theorem reset_mem_wf : Memory.wf State.reset.hub.mem = true := rfl

/-- A byte that no byte of a write falls on. -/
theorem memByte_memWrite_other (mem : Table Byte) (a : Nat) (l : List Byte) (b : Nat)
    (h : ∀ i < l.length, wrap (a + i) ≠ wrap b) : memByte (memWrite mem a l) b = memByte mem b := by
  induction l generalizing mem a with
  | nil => rfl
  | cons x l ih =>
    have h0 : wrap b ≠ wrap a := fun hc => h 0 (by simp) (by simpa using hc.symm)
    refine (ih _ (a + 1) (fun i hi => ?_)).trans (readAt_writeAt_other _ _ _ h0)
    have := h (i + 1) (by simpa using hi)
    rwa [Nat.add_assoc, Nat.add_comm 1 i]

/-- A byte of a write no longer than the address space. -/
theorem memByte_memWrite (mem : Table Byte) (a : Nat) (l : List Byte) (hl : l.length ≤ 2 ^ 32) (i : Nat)
    (hi : i < l.length) : memByte (memWrite mem a l) (a + i) = l[i] := by
  induction l generalizing mem a i with
  | nil => simp at hi
  | cons x l ih =>
    simp only [List.length_cons] at hl hi
    cases i with
    | zero =>
      refine (memByte_memWrite_other _ (a + 1) l a (fun j hj hc => ?_)).trans ?_
      · unfold wrap at hc
        omega
      · exact readAt_writeAt_same _ _ _ _
    | succ i =>
      have := ih (writeAt unwrittenByte mem (wrap a) x) (a + 1) (by omega) i (by omega)
      rw [show a + (i + 1) = a + 1 + i by omega]
      exact this

end Sys2Proof.Laws
end

