-- ==== Sys2Proof/Laws/Ops.lean ====
section
/-! SUPPORT. What each shared operation over the records can do, said once: the net flow at a dock, the close
of a card at its last hire, the state of a ticket, holds, faults, and the close of a ticket. -/

namespace Sys2Proof.Laws

open Sys2Proof Sys2Proof.Machine

/-! ## Net flow (R132, R133) -/

/-- R132, R133: the net flow change of a dock event reaches the dock's station alone, which is concerned. -/
theorem bumpDock_eq (w : Work) (d : Nat) (change : Int) :
    (w.bumpDock d change).set = w.set ∧ (w.bumpDock d change).notices = w.notices ∧
      ButStations w.store (w.bumpDock d change).store ∧
      (∀ i, stationAt (w.bumpDock d change).store i = bumped w.store d change i) ∧
      (w.bumpDock d change).touched = w.touched ++ stationsOfDock w.store d := by
  unfold Work.bumpDock bumped stationsOfDock
  cases h : (dockAt w.store d).station with
  | none => exact ⟨rfl, rfl, ButStations.refl _, fun i => by simp, by simp⟩
  | some k =>
    refine ⟨rfl, rfl, butStations_putStation _ _ _, fun i => ?_, rfl⟩
    simp only [Work.bumpFlow, setStation_store, stationAt_putStation, Option.some.injEq]
    by_cases hi : i = k
    · subst hi; simp
    · rw [if_neg hi, if_neg (fun hk => hi hk.symm)]

/-! ## Cards (R34, R38) -/

/-- R34: the removal of a card. -/
theorem removeCard_removed {st : Store} {slot : Nat} {c : Card} (h : cardAt st slot = some c) :
    Removed st (removeCard st slot) slot c ∧ removeCard st slot = { st with cards := (removeCard st slot).cards } := by
  unfold removeCard
  rw [h]
  refine ⟨⟨fun k => ?_, fun b => ?_, rfl⟩, rfl⟩
  · simp only [cardAt_putCard]
    rfl
  · simp only [chainAt_putCard, chainAt_mk_in, chainAt_putChain]
    by_cases hb : b = bucketOf c.serial
    · simp [hb]
    · simp [hb]

/-- R38: a card is closed at its last hire, or stands. -/
theorem closeCardAtLast_eq {w : Work} {slot : Nat} {c : Card} (h : cardAt w.store slot = some c) :
    (w.closeCardAtLast slot).2 = decide (ClosesAtLast c) ∧ (w.closeCardAtLast slot).1.set = w.set ∧
      (w.closeCardAtLast slot).1.touched = w.touched ∧
      (w.closeCardAtLast slot).1.notices = w.notices ++ closingNotice c ∧
      (w.closeCardAtLast slot).1.store = if ClosesAtLast c then removeCard w.store slot else w.store := by
  unfold Work.closeCardAtLast closingNotice
  rw [h]
  by_cases hc : ClosesAtLast c
  · simp [hc]
  · simp [hc]

/-- R38: what the close of a card leaves in the Card Store. -/
theorem closeCardAtLast_left {w : Work} {slot : Nat} {c : Card} (h : cardAt w.store slot = some c) :
    LeftWith w.store (w.closeCardAtLast slot).1.store slot c ∧
      (w.closeCardAtLast slot).1.store = { w.store with cards := (w.closeCardAtLast slot).1.store.cards } := by
  obtain ⟨-, -, -, -, hs⟩ := closeCardAtLast_eq h
  unfold LeftWith
  by_cases hc : ClosesAtLast c
  · rw [hs, if_pos hc, if_pos hc]
    exact removeCard_removed h
  · rw [hs, if_neg hc, if_neg hc]
    exact ⟨⟨h, rfl, rfl⟩, rfl⟩

/-! ## Tickets (R97) and holds (R7, R65) -/

/-- R97: the move of a bike's ticket to another state. -/
theorem moveTicket_eq (w : Work) (b : Nat) (x : TicketState) :
    (w.moveTicket b x).store = ticketIn w.store b x ∧ (w.moveTicket b x).set = w.set ∧
      (w.moveTicket b x).notices = w.notices ∧ (w.moveTicket b x).touched = w.touched := by
  unfold Work.moveTicket ticketIn
  cases h : (bikeAt w.store b).fault.ticket with
  | none => exact ⟨rfl, rfl, rfl, rfl⟩
  | some id =>
    cases ht : ticketAt w.store id with
    | none => simp [ht]
    | some t => simp [ht]

/-- R97: the move of a ticket reaches ticket slots alone. -/
theorem ticketIn_eq (st : Store) (b : Nat) (x : TicketState) :
    ticketIn st b x = { st with faults.tickets := (ticketIn st b x).faults.tickets } := by
  unfold ticketIn
  split <;> rfl

/-- R7: a bike that is not held loses no hold. -/
theorem unhold_free {w : Work} {b : Nat} (h : (bikeAt w.store b).heldFor = none) : w.unhold b = w := by
  unfold Work.unhold
  rw [h]

/-- R65: the end of a reservation reaches its three places and the count. -/
theorem endHold_eq {w : Work} {slot b : Nat} {c : Card} (h : cardAt w.store slot = some c) :
    (w.endHold slot b).store =
      { putBike (putCard w.store slot (some { c with reservation := none })) b
          { bikeAt w.store b with heldFor := none } with
        fleet.reservationsHeld := w.store.fleet.reservationsHeld - 1
        timer.deadlines := dropEntry (.holdExpiry b) w.store.timer.deadlines } ∧
      (w.endHold slot b).set = w.set ∧ (w.endHold slot b).notices = w.notices ∧
      ∀ i, i ∈ (w.endHold slot b).touched ↔ i ∈ w.touched ∨ i ∈ stationsOfBike w.store b := by
  unfold Work.endHold Work.modifyCard
  rw [h]
  refine ⟨rfl, rfl, rfl, fun i => ?_⟩
  simp [stationsOfBike, placeStation]

/-- R65: a reservation is set in its three places, and the count rises. -/
theorem setHold_eq {w : Work} {slot b i due : Nat} {c : Card} (h : cardAt w.store slot = some c) :
    (w.setHold slot b i due).store =
      { putBike (putCard w.store slot (some { c with reservation := some ⟨b, i⟩ })) b
          { bikeAt w.store b with heldFor := some slot } with
        fleet.reservationsHeld := w.store.fleet.reservationsHeld + 1
        timer.deadlines := insertEntry ⟨.holdExpiry b, due⟩ w.store.timer.deadlines } ∧
      (w.setHold slot b i due).set = w.set ∧ (w.setHold slot b i due).notices = w.notices ∧
      ∀ k, k ∈ (w.setHold slot b i due).touched ↔ k ∈ w.touched ∨ k ∈ stationsOfBike w.store b := by
  unfold Work.setHold Work.modifyCard
  rw [h]
  refine ⟨rfl, rfl, rfl, fun k => ?_⟩
  simp [stationsOfBike, placeStation]

/-! ## Claims (R117) -/

/-- R117: the claim of a van is cleared in its three places. -/
theorem clearClaim_some {w : Work} {v : Nat} {c : Claim} (h : (vanAt w.store v).claim = some c) :
    (w.clearClaim v).2 = some c.station ∧
      (w.clearClaim v).1.store = claimCleared w.store v c w.store.timer.deadlines ∧
      (w.clearClaim v).1.set = w.set ∧ (w.clearClaim v).1.notices = w.notices ∧
      (w.clearClaim v).1.touched = w.touched := by
  unfold Work.clearClaim
  rw [h]
  exact ⟨rfl, rfl, rfl, rfl, rfl⟩

/-- R117: a van without a claim has none to clear. -/
theorem clearClaim_none {w : Work} {v : Nat} (h : (vanAt w.store v).claim = none) :
    w.clearClaim v = (w, none) := by
  unfold Work.clearClaim
  rw [h]

/-! ## Faults (R94 to R96) -/

/-- The hold that a fault on a subject could end or move: that of the bike, or of the bike in the dock. -/
def unheld (st : Store) : Subject → Prop
  | .bike b => (bikeAt st b).heldFor = none
  | .dock d => ∀ b, (dockAt st d).content = .bike b → (bikeAt st b).heldFor = none

/-- The station whose census a fault on a subject concerns. -/
theorem setFault_touched (w : Work) (sub : Subject) (f : FaultState) (i : Nat) :
    i ∈ (w.setFault sub f).touched ↔ i ∈ w.touched ∨ i ∈ stationsOf w.store sub := by
  cases sub <;> simp [Work.setFault, stationsOf, stationsOfBike, stationsOfDock, placeStation]

theorem setFault_same (w : Work) (sub : Subject) (f : FaultState) :
    (w.setFault sub f).set = w.set ∧ (w.setFault sub f).notices = w.notices ∧
      (w.setFault sub f).store.cards = w.store.cards ∧ (w.setFault sub f).store.hires = w.store.hires ∧
      (w.setFault sub f).store.vans = w.store.vans ∧ (w.setFault sub f).store.timer = w.store.timer ∧
      (w.setFault sub f).store.faults = w.store.faults ∧
      (w.setFault sub f).store.tariff = w.store.tariff ∧
      faultOf (w.setFault sub f).store sub = f := by
  cases sub <;>
    exact ⟨rfl, rfl, rfl, rfl, rfl, rfl, rfl, rfl, by simp [Work.setFault, faultOf]⟩

theorem setFault_unheld (w : Work) (sub : Subject) (f : FaultState) (h : unheld w.store sub) :
    (w.setFault sub f).unholdSubject sub = w.setFault sub f := by
  cases sub with
  | bike b => exact unhold_free (by simpa [Work.setFault, unheld] using h)
  | dock d =>
    have hd : (dockAt (w.setFault (.dock d) f).store d).content = (dockAt w.store d).content := by
      simp [Work.setFault]
    unfold Work.unholdSubject
    dsimp only
    rw [hd]
    cases hc : (dockAt w.store d).content with
    | bike b => exact unhold_free (by simpa [Work.setFault] using h b hc)
    | empty => rfl
    | unidentified => rfl

/-- R94 steps 2 and 3 leave bikes and docks alone. -/
theorem placeFault_fleet (w : Work) (sub : Subject) (c : Cause) (rep : Option Nat) :
    (w.placeFault sub c rep).1.store.fleet = w.store.fleet ∧ (w.placeFault sub c rep).1.set = w.set ∧
      (w.placeFault sub c rep).1.notices = w.notices ∧ (w.placeFault sub c rep).1.touched = w.touched := by
  unfold Work.placeFault
  dsimp only
  cases (faultOf w.store sub).ticket with
  | some id => exact ⟨rfl, rfl, rfl, rfl⟩
  | none =>
    cases (faultOf w.store sub).pending with
    | some p => exact ⟨rfl, rfl, rfl, rfl⟩
    | none => cases freeTicketSlot w.store <;> exact ⟨rfl, rfl, rfl, rfl⟩

/-- R94: a fault on a RETIRED subject is not raised. -/
theorem raiseFault_retired {w : Work} {sub : Subject} (h : isRetired w.store sub = true) (c : Cause)
    (rep : Option Nat) : w.raiseFault sub c rep = (w, .notRaised) := by
  unfold Work.raiseFault
  rw [if_pos h]

/-- R94, R95, R96: a fault on a subject that is not RETIRED and concerns no held bike. -/
theorem raiseFault_unheld {w : Work} {sub : Subject} (hr : isRetired w.store sub = false)
    (hu : unheld w.store sub) (c : Cause) (rep : Option Nat) :
    w.raiseFault sub c rep =
      let p := w.placeFault sub c rep
      let f := countStrike w.set sub c p.2.1
      ((p.1.setFault sub f).faultNotice sub c rep f p.2.2, p.2.2) := by
  obtain ⟨h1, h2, -, -⟩ := placeFault_fleet w sub c rep
  unfold Work.raiseFault
  rw [if_neg (by simp [hr])]
  have hu' : unheld (w.placeFault sub c rep).1.store sub := by
    cases sub with
    | bike b => simpa [unheld, bikeAt, h1] using hu
    | dock d => simpa [unheld, bikeAt, dockAt, h1] using hu
  simp only [h2]
  rw [setFault_unheld _ _ _ hu']

/-! ## Closing a ticket (R98 to R100) -/

/-- R100: nobody is served from an empty waiting list. -/
theorem serve_none {w : Work} (h : w.store.faults.waiting = []) : w.serve = (w, none) := by
  unfold Work.serve
  rw [h]

/-- R99: the close of a ticket whose subject is not condemned, nobody waiting. -/
theorem closeTicket_eq {w : Work} {id : Handle} {t : Ticket} (hc : (faultOf w.store t.subject).condemned = false)
    (hw : w.store.faults.waiting = []) (overhaul : Bool) :
    w.closeTicket id t overhaul =
      let u := if overhaul then w.overhaul t.subject else w
      ((u.setTicketSlot id.slot ⟨((ticketSlotAt u.store id.slot).gen + 1) % 256, none⟩).setFault t.subject
        { faultOf u.store t.subject with ticket := none }, ⟨t.subject, t.cause, false, none⟩) := by
  unfold Work.closeTicket
  have hu : (faultOf (if overhaul then w.overhaul t.subject else w).store t.subject).condemned = false := by
    cases overhaul
    · exact hc
    · revert hc
      cases t.subject <;> simp [Work.overhaul, Work.setFault, faultOf]
  have hf : (if overhaul then w.overhaul t.subject else w).store.faults.waiting = [] := by
    cases overhaul
    · exact hw
    · cases t.subject <;> simpa [Work.overhaul, Work.setFault] using hw
  generalize (if overhaul then w.overhaul t.subject else w) = u at hu hf
  simp only [hu, Bool.false_eq_true, if_false]
  rw [serve_none]
  revert hf
  cases t.subject <;> simp [Work.setFault]

end Sys2Proof.Laws
end

