-- ==== Sys2Proof/Laws/Step.lean ====
section
/-! SUPPORT. What one command can do to the records, whatever the bus answers: the rings and the bus leave them
alone, and a grant leaves what the rule of its command leaves. -/

namespace Sys2Proof.Laws

open Sys2Proof Sys2Proof.Machine

/-- Two states with the same records and the same settings. -/
structure SameRecords (s t : State) : Prop where
  store : t.store = s.store
  settings : t.settings = s.settings

theorem SameRecords.refl (s : State) : SameRecords s s := ⟨rfl, rfl⟩

theorem SameRecords.trans {s t u : State} (h : SameRecords s t) (k : SameRecords t u) : SameRecords s u :=
  ⟨k.store.trans h.store, k.settings.trans h.settings⟩

theorem busAnswer_records (s : State) : SameRecords s (busAnswer s).2 := by
  unfold busAnswer
  split <;> exact ⟨rfl, rfl⟩

theorem busRead_records (s : State) (a n : Nat) : SameRecords s (busRead s a n).2 := by
  have h := busAnswer_records s
  unfold busRead
  split <;> (rename_i he; rw [he] at h; exact h)

theorem busOwn_records (s : State) (a : Nat) : SameRecords s (busOwn s a).2 := by
  have h := busRead_records s a 1
  unfold busOwn
  split <;> (rename_i he; rw [he] at h; exact h)

theorem storePart_records (s : State) (a : Nat) (l : List Byte) (p : Bool) (n : Nat) :
    SameRecords s (storePart s a l p n) := by
  unfold storePart
  split <;> exact ⟨rfl, rfl⟩

theorem busWrite_records (s : State) (a : Nat) (l : List Byte) (p : Bool) :
    SameRecords s (busWrite s a l p).2 := by
  have h := busAnswer_records s
  unfold busWrite
  split
  · rename_i he
    rw [he] at h
    exact ⟨h.store, h.settings⟩
  all_goals
    rename_i he
    rw [he] at h
    exact h.trans (storePart_records _ _ _ _ _)

theorem look_records (s : State) (n : Nat) : SameRecords s (look s n) := by
  unfold look
  dsimp only
  have h1 := busOwn_records s (slotAddress (ringAt s n).request (ringAt s n).head)
  split
  · rename_i he; rw [he] at h1; exact ⟨h1.store, h1.settings⟩
  · rename_i he; rw [he] at h1; exact ⟨h1.store, h1.settings⟩
  · rename_i s' he
    rw [he] at h1
    split
    · exact ⟨h1.store, h1.settings⟩
    · have h2 := busOwn_records s' (slotAddress (ringAt s n).response (ringAt s n).responseIndex)
      split
      · rename_i he'; rw [he'] at h2; exact ⟨(h1.trans h2).store, (h1.trans h2).settings⟩
      · rename_i he'; rw [he'] at h2; exact ⟨(h1.trans h2).store, (h1.trans h2).settings⟩

theorem endGrant_records (s : State) (n : Nat) (next : State → State) (h : SameRecords s (next s)) :
    SameRecords s (endGrant s n next) := by
  unfold endGrant
  split
  · exact ⟨rfl, rfl⟩
  · exact h

theorem lookAgain_records (s : State) (n : Nat) : SameRecords s (lookAgain s n) := by
  exact endGrant_records _ _ _ (look_records s n)

theorem writeNotice_records (s : State) (n : Notice) : SameRecords s (writeNotice s n) := by
  unfold writeNotice
  dsimp only
  have h1 := busOwn_records s (slotAddress s.rings.notice s.rings.noticeIndex)
  split
  · rename_i he; rw [he] at h1; exact ⟨h1.store, h1.settings⟩
  · rename_i he; rw [he] at h1; exact ⟨h1.store, h1.settings⟩
  · rename_i s' he
    rw [he] at h1
    have h2 := busWrite_records s' (slotAddress s.rings.notice s.rings.noticeIndex)
      (noticeBytes s'.store.timer.clock n) false
    split
    · rename_i he'; rw [he'] at h2; exact ⟨(h1.trans h2).store, (h1.trans h2).settings⟩
    · rename_i he'; rw [he'] at h2; exact ⟨(h1.trans h2).store, (h1.trans h2).settings⟩

theorem writeNotices_records (s : State) (l : List Notice) : SameRecords s (writeNotices s l) := by
  unfold writeNotices
  induction l generalizing s with
  | nil => exact SameRecords.refl s
  | cons n l ih => exact (writeNotice_records s n).trans (ih _)

theorem writeBlock_records (s : State) (q : Request) (r : Reply) : SameRecords s (writeBlock s q r).2 := by
  unfold writeBlock
  split
  · exact busWrite_records _ _ _ _
  · exact SameRecords.refl s

theorem writeResponse_records (s : State) (n : Nat) (code : Byte) (q : Request) (r : Reply) :
    SameRecords s (writeResponse s n code q r).2 := by
  have h1 := writeBlock_records s q r
  unfold writeResponse
  split
  · rename_i he; rw [he] at h1; exact h1
  · rename_i s' he
    rw [he] at h1
    exact h1.trans (busWrite_records _ _ _ _)

theorem answer_records (s : State) (n : Nat) (code : Byte) (q : Request) (r : Reply) (l : List Notice) :
    SameRecords s (answer s n code q r l) := by
  have h1 := writeResponse_records s n code q r
  unfold answer
  split
  · rename_i s' he
    rw [he] at h1
    refine SameRecords.trans ?_ (lookAgain_records _ n)
    refine SameRecords.trans ?_ (writeNotices_records _ l)
    exact ⟨h1.store, h1.settings⟩
  · rename_i s' he
    rw [he] at h1
    refine SameRecords.trans (SameRecords.trans ?_ (writeNotices_records _ l)) (endGrant_records _ _ _ ⟨rfl, rfl⟩)
    exact ⟨h1.store, h1.settings⟩

theorem reserveSlot_records (s : State) (n : Nat) (q : Request) : SameRecords s (reserveSlot s n q) := by
  unfold reserveSlot
  dsimp only
  refine SameRecords.trans ?_ (lookAgain_records _ n)
  exact ⟨rfl, rfl⟩

theorem setPassOver_fold_records (f : Requester → State → State) (hf : ∀ r s, SameRecords s (f r s))
    (l : List Requester) (s : State) : SameRecords s (l.foldl (fun t r => f r t) s) := by
  induction l generalizing s with
  | nil => exact SameRecords.refl s
  | cons r l ih => exact (hf r s).trans (ih _)

theorem chargeGrant_records (s : State) (g : Requester) : SameRecords s (chargeGrant s g) :=
  setPassOver_fold_records (fun r t => setPassOver t r (countAfterGrant s g r)) (fun _ _ => ⟨rfl, rfl⟩) _ s

theorem settleCounts_records (s : State) : SameRecords s (settleCounts s) := by
  refine setPassOver_fold_records (fun r t => if requesting s r then t else setPassOver t r 0)
    (fun r t => ?_) _ s
  split
  · exact SameRecords.refl t
  · exact ⟨rfl, rfl⟩

/-- The end of a command leaves the records and the settings; a reset taken in it clears the clock (R179). -/
theorem endCommand_records (s : State) :
    ((endCommand s).store = s.store ∨ (endCommand s).store = clockCleared s.store) ∧
      (endCommand s).settings = s.settings := by
  unfold endCommand
  split
  · exact ⟨Or.inr rfl, rfl⟩
  · have h := settleCounts_records { s with rings.inHand := none, hub.answers := [] }
    exact ⟨Or.inl h.store, h.settings⟩

theorem haltEngine_records (s : State) : SameRecords s (haltEngine s) :=
  ⟨haltEngine_store s, haltEngine_settings s⟩

theorem stopRing_records (s : State) (n : Nat) : SameRecords s (stopRing s n) := by
  unfold stopRing
  split
  · split
    · exact SameRecords.refl s
    · split <;> exact ⟨rfl, rfl⟩
    all_goals exact ⟨rfl, rfl⟩
  · exact SameRecords.refl s

theorem stopEngine_records (s : State) : SameRecords s (stopEngine s) := by
  unfold stopEngine
  split
  · split
    · exact haltEngine_records s
    · exact ⟨rfl, rfl⟩
  · exact SameRecords.refl s

theorem grantRing_records (q : Request) (s : State) : SameRecords s (grantRing q s) := by
  unfold grantRing meanwhile
  have hc := chargeGrant_records (beginCommand s q.hub) (.ring q.ring.val)
  dsimp only
  generalize chargeGrant (beginCommand s q.hub) (.ring q.ring.val) = c at hc
  generalize hx : ({ c with rings.inHand := some q.ring.val } : State) = t
  have h0 : SameRecords s t := by rw [← hx]; exact ⟨hc.store, hc.settings⟩
  have h1 : SameRecords t (if q.stopRing then stopRing t q.ring.val else t) := by
    split
    · exact stopRing_records t _
    · exact SameRecords.refl t
  generalize (if q.stopRing = true then stopRing t q.ring.val else t) = r at h1
  refine (h0.trans h1).trans ?_
  split
  · exact stopEngine_records r
  · exact SameRecords.refl r

/-- What a request's rule leaves of the records, from the records `st` and the settings `set`. -/
def LeavesOnly (rule : State → Request → Handled) (set : Settings) (st : Store) (q : Request)
    (P : Store → Prop) : Prop :=
  ∀ u : State, u.store = st → u.settings = set →
    match rule u q with
    | .answered t _ _ => P t.store ∧ t.settings = set
    | .reserved t => P t.store ∧ t.settings = set

/-- The records after a grant to a ring: as they were, or as the rule of the code leaves them, and with the clock
cleared where a reset is taken in it. -/
theorem grantRequest_records {code : Byte} {rule : State → Request → Handled} {q : Request} {s : State}
    {P : Store → Prop} (hclear : ∀ st, P st → P (clockCleared st)) (hp : P s.store) (hr : LeavesOnly rule s.settings s.store q P) :
    P (grantRequest code rule q s).store ∧ (grantRequest code rule q s).settings = s.settings := by
  unfold grantRequest
  split
  · have hg := grantRing_records q s
    generalize grantRing q s = g at hg
    have he := endCommand_records (takeDescriptor code rule q g)
    rw [he.2]
    suffices hs : P (takeDescriptor code rule q g).store ∧ (takeDescriptor code rule q g).settings = s.settings by
      refine ⟨?_, hs.2⟩
      rcases he.1 with h | h <;> rw [h]
      · exact hs.1
      · exact hclear _ hs.1
    clear he
    unfold takeDescriptor
    dsimp only
    generalize hm : ({ g with hub.mem := (memWrite g.hub.mem
        (slotAddress (ringAt g q.ring.val).request (ringAt g q.ring.val).head) (descriptorBytes code q)) } : State) = m
    have h0 : SameRecords s m := by rw [← hm]; exact ⟨hg.store, hg.settings⟩
    have h1 := h0.trans (busRead_records m
      (slotAddress (ringAt g q.ring.val).request (ringAt g q.ring.val).head) 32)
    have fin : ∀ u v : State, SameRecords s u → SameRecords u v → P v.store ∧ v.settings = s.settings :=
      fun u v h k => ⟨by rw [(h.trans k).store]; exact hp, (h.trans k).settings⟩
    split
    · rename_i u he'
      rw [he'] at h1
      exact fin (raiseEvent u ringFailed) _ ⟨h1.store, h1.settings⟩ (endGrant_records _ _ _ ⟨rfl, rfl⟩)
    · rename_i u he'
      rw [he'] at h1
      split
      · have h2 := busWrite_records u (slotAddress (ringAt g q.ring.val).request (ringAt g q.ring.val).head)
          (writtenBackBytes code q) false
        split
        · rename_i v he2
          rw [he2] at h2
          exact fin (raiseEvent v ringFailed) _ ⟨(h1.trans h2).store, (h1.trans h2).settings⟩ (endGrant_records _ _ _ ⟨rfl, rfl⟩)
        · rename_i v he2
          rw [he2] at h2
          have h3 := h1.trans h2
          generalize hx : setRing v q.ring.val _ = x
          have h4 : SameRecords s x := by rw [← hx]; exact ⟨h3.store, h3.settings⟩
          unfold carryOut
          split
          · exact fin _ _ h4 (answer_records _ _ _ _ _ _)
          · have h5 := hr x h4.store h4.settings
            revert h5
            cases rule x q with
            | answered t r l =>
              intro h5
              have h6 := answer_records t q.ring.val code q r l
              exact ⟨by rw [h6.store]; exact h5.1, h6.settings.trans h5.2⟩
            | reserved t =>
              intro h5
              have h6 := reserveSlot_records t q.ring.val q
              exact ⟨by rw [h6.store]; exact h5.1, h6.settings.trans h5.2⟩
      · exact fin _ _ h1 (endGrant_records _ _ _ ⟨rfl, rfl⟩)
  · exact ⟨hp, rfl⟩

/-- The records after a grant that takes a request whose rule is over the records: as they were, or as the end
of the work leaves them; and with the clock cleared where a reset is taken in the grant. -/
theorem grantRequest_work_records (code : Byte) (rule : Work → Request → Reply × Work) (q : Request)
    (s : State) :
    (∃ st, (st = s.store ∨ st = (rule (begun s) q).2.settle.store) ∧
      ((grantRequest code (workRule rule) q s).store = st ∨
        (grantRequest code (workRule rule) q s).store = clockCleared st)) ∧
      (grantRequest code (workRule rule) q s).settings = s.settings := by
  refine grantRequest_records 
    (P := fun t => ∃ st, (st = s.store ∨ st = (rule (begun s) q).2.settle.store) ∧ (t = st ∨ t = clockCleared st))
    (fun t h => ?_) ⟨_, Or.inl rfl, Or.inl rfl⟩ (fun u hs hset => ?_)
  · obtain ⟨st, h1, rfl | rfl⟩ := h
    · exact ⟨_, h1, Or.inr rfl⟩
    · exact ⟨_, h1, Or.inr rfl⟩
  have he : (⟨u.settings, u.store, [], []⟩ : Work) = begun s := by rw [hs, hset]; rfl
  unfold workRule
  rw [he]
  generalize rule (begun s) q = p
  obtain ⟨r, w⟩ := p
  dsimp only
  generalize w.settle = x
  exact ⟨⟨_, Or.inr rfl, Or.inl rfl⟩, hset⟩

/-- The records after a grant to the Timer Unit; a reset taken in it clears the clock. -/
theorem grantExpiry_records (hub : HubInput) (rule : Work → Work) (s : State) :
    ((grantExpiry hub rule s).store = (rule ⟨s.settings, headTaken s.store, [], []⟩).settle.store ∨
      (grantExpiry hub rule s).store =
        clockCleared (rule ⟨s.settings, headTaken s.store, [], []⟩).settle.store) ∧
      (grantExpiry hub rule s).settings = s.settings := by
  have hc := chargeGrant_records (beginCommand s hub) .timer
  unfold grantExpiry
  dsimp only
  generalize chargeGrant (beginCommand s hub) .timer = g at hc
  have he : (⟨g.settings, { g.store with timer.deadlines := g.store.timer.deadlines.tail }, [], []⟩ : Work) =
      ⟨s.settings, headTaken s.store, [], []⟩ := by rw [hc.store, hc.settings]; rfl
  rw [he]
  generalize (rule ⟨s.settings, headTaken s.store, [], []⟩).settle = w
  have h1 := writeNotices_records { g with store := w.store } w.notices
  have h2 := endCommand_records (writeNotices { g with store := w.store } w.notices)
  rw [h1.store] at h2
  exact ⟨h2.1, h2.2.trans (h1.settings.trans hc.settings)⟩

end Sys2Proof.Laws
end

