-- ==== Sys2Proof/WellFormed.lean ====
section
/-! DEFINITION. Which commands a hub processor can send: the checks on the operands that their types do
not make. `exec` answers on every command, well formed or not. -/

namespace Sys2Proof

open Sys2Proof.Machine

/-- R154, R182: the hub processor stores at hub addresses of 32 bits. -/
def goodHub (h : HubInput) : Bool := h.writes.all (fun c => decide (c.1 < 2 ^ 32))

/-- R184: the ring number of RING_COMMAND has three bits. -/
def goodRing (ring : Nat) : Bool := decide (ring < 8)

/-- R160: a request that a command takes is handed to the part. -/
def goodRequest (q : Request) : Bool := owned q && goodHub q.hub

/-- R160: the descriptor of a grant without work is not handed to the part. -/
def goodIdle (q : Request) : Bool := !owned q && goodHub q.hub

/-- R161, R171: the bytes fail the descriptor check, or the code names no request of the part. -/
def goodUnknown (code : Byte) (q : Request) : Bool :=
  goodRequest q && ((codeEntry code).isNone || descriptorSum code q != 255)

/-- Whether a command can be sent. -/
def wellFormed : Instr → Bool
  | .bikeArrived q => goodRequest q
  | .bikeRemoved q => goodRequest q
  | .dockStatus q => goodRequest q
  | .cardCheck q => goodRequest q
  | .hireRelease q => goodRequest q
  | .hireQuery q => goodRequest q
  | .cancelReservation q => goodRequest q
  | .vanShiftStart q => goodRequest q
  | .vanShiftEnd q => goodRequest q
  | .vanSuggest q => goodRequest q
  | .vanClaim q => goodRequest q
  | .vanReleaseClaim q => goodRequest q
  | .vanLoad q => goodRequest q
  | .workshopDrop q => goodRequest q
  | .workshopPickup q => goodRequest q
  | .fieldClear q => goodRequest q
  | .crewFlag q => goodRequest q
  | .vanQuery q => goodRequest q
  | .timeSet q => goodRequest q
  | .tariffLoad q => goodRequest q
  | .stationDefine q => goodRequest q
  | .vanDefine q => goodRequest q
  | .bikeCommission q => goodRequest q
  | .bikeDecommission q => goodRequest q
  | .dockCommission q => goodRequest q
  | .cardPut q => goodRequest q
  | .cardCredit q => goodRequest q
  | .cardStatus q => goodRequest q
  | .cardRetire q => goodRequest q
  | .cardQuery q => goodRequest q
  | .bulkCardLoad q => goodRequest q
  | .reserve q => goodRequest q
  | .ticketClose q => goodRequest q
  | .dockRestore q => goodRequest q
  | .ticketQuery q => goodRequest q
  | .bikeQuery q => goodRequest q
  | .stationQuery q => goodRequest q
  | .grantWithoutWork _ q => goodIdle q
  | .releaseWindowExpiry hub => goodHub hub
  | .overdueExpiry hub => goodHub hub
  | .lostExpiry hub => goodHub hub
  | .holdExpiry hub => goodHub hub
  | .loadWindowExpiry hub => goodHub hub
  | .claimExpiry hub => goodHub hub
  | .trendEpoch hub => goodHub hub
  | .bulkCardImage hub => goodHub hub
  | .tick => true
  | .resetPin => true
  | .initFormat => true
  | .initKeep => true
  | .initCompletion hub => goodHub hub
  | .engineStop => true
  | .stopCompletion hub => goodHub hub
  | .ringStart ring hub => goodRing ring && goodHub hub
  | .kick ring hub => goodRing ring && goodHub hub
  | .resume ring hub => goodRing ring && goodHub hub
  | .ringStop ring => goodRing ring
  | .indexPortWrite _ => true
  | .clockLowRead => true
  | .eventClear _ => true
  | .eventEnableWrite _ => true
  | .controlWordWrite _ hub => goodHub hub
  | .unknownRequestCode code q => goodUnknown code q

end Sys2Proof
end

