-- ==== Sys2Proof/Tests/Slice0.lean ====
section
/-! SUPPORT. Tests: what WellFormed refuses, the worked cases of the manual, and for every statement with
hypotheses a state and operands that meet them (`met_…`). -/

namespace Sys2Proof.Tests

open Sys2Proof Sys2Proof.Machine

/-! ## Helpers -/

/-- Settings of the manual's examples: home issuer 20, the mask flag of group 47, no report test, no offset. -/
def cfg : Settings :=
  { noSettings with
    homeIssuer := 20, guestAcceptance := true, acceptMask := 1#64 <<< 47, releaseWindow := 60
    reservationHold := 600, claimDuration := 1200, overduePoint := 86400, lostPoint := 259200
    trendPeriod := 600, bikeStrikeLimit := 6, dockStrikeLimit := 4 }

/-- The example tariff (4, Worked cases). -/
def tar : Tariff :=
  { member := ⟨500, 200, 30, 102400, -500⟩, casual := ⟨2000, 1000, 0, 0, -100⟩
    guest := ⟨300, 0, 0, 0, 0⟩, crew := ⟨0, 0, 0, 0, 0⟩
    memberCurve := [⟨0, 0⟩, ⟨60, 25600⟩, ⟨120, 64000⟩, ⟨240, 153600⟩]
    casualCurve := [⟨0, 256⟩, ⟨30, 12800⟩, ⟨60, 38400⟩]
    grid := 15, windows := [⟨28, 38, 80⟩, ⟨88, 8, 96⟩, ⟨40, 40, 100⟩]
    grace := 60, billingStep := 5, waiverWindow := 120, lostFee := 5000 }

/-- Records with the clock at `now` and the example tariff loaded. -/
def records (now : Nat) : Store := { noStore with tariff := ⟨true, tar⟩, timer := ⟨some now, 0#16, []⟩ }

/-- A RUNNING part with records `st` and ring `n` READY at index 15 of rings of 16 descriptors. -/
def ready (n : Nat) (st : Store) : State :=
  { State.reset with
    engine := ⟨.running, false, true, .ok, false⟩, settings := cfg, store := st
    rings :=
      { State.reset.rings with
        rings := [(n, ⟨.ready, false, 15, 15, ⟨4096, 16⟩, ⟨8192, 16⟩⟩)], notice := ⟨16384, 16⟩ } }

/-- A request on ring `n` with parameters `l`. -/
def ask (n : Fin 4) (l : List Byte) : Request :=
  { ring := n, byte0 := 1#8, check := 0#8, length := BitVec.ofNat 8 l.length, tag := 5#32, block := 0#32
    params := BitVec.ofNat 160 (fromBytes l), stopRing := false, stopEngine := false, hub := ⟨[], []⟩ }

/-- A RUNNING part whose deadline list is `l`. -/
def timed (st : Store) (l : List Entry) : State :=
  ready 4 { st with timer := { st.timer with deadlines := l } }

def quiet : HubInput := ⟨[], []⟩

/-- The home serial 20 × 2^40 + 5 and a card with it. -/
def serial : Nat := 20 * 2 ^ 40 + 5
def card : Card :=
  ⟨serial, .member, .active, false, 1000, 0, 0, [], 4, none, 0, 0, none, 0, 0⟩

/-- Records in which slot 16,383 holds `c`. -/
def withCard (c : Card) (st : Store) : Store :=
  putChain (putCard { st with cards.free := [0] } 16383 (some c)) (bucketOf c.serial) [16383]

/-- Station 31 with docks 1,020 to 1,023, and bike 2,047 DOCKED in dock 1,023. -/
def stationed (st : Store) : Store :=
  let st := putStation st 31 { formattedStation with isDefined := true, firstDock := 1020, dockCount := 4 }
  let st := putDock st 1020 { formattedDock with station := some 31, service := .inService }
  let st := putDock st 1023
    { formattedDock with station := some 31, service := .inService, content := .bike 2047 }
  putBike st 2047 { formattedBike with state := .docked, place := some (.dock 1023) }

/-- Hire 1023/255 of the card in slot 16,383 with bike 2,047 from dock 1,023. -/
def hireId : Handle := ⟨1023, 255⟩
def hired (h : HireState) (start : Option Nat) (b : BikeState) (p : Place) (st : Store) : Store :=
  let st := stationed (withCard { card with openHires := [hireId], holdTotal := 500 } st)
  let st := putHireSlot st 1023 ⟨255, some ⟨h, 16383, 2047, 1023, 100, start, 500, .member⟩⟩
  putBike st 2047 { formattedBike with state := b, place := some p, hire := some hireId }

/-- Van 7 of capacity 24, crewed by `serial`. -/
def van : Van := ⟨true, 24, some serial, none, none, []⟩

/-- Van parameters: van 7, the crew serial, and the rest. -/
def vanAsk (l : List Byte) : Request := ask 2 (le 1 7 ++ le 7 serial ++ l)

/-! ## What WellFormed refuses -/

theorem test_hub_address_refused : wellFormed (.initCompletion ⟨[(2 ^ 32, 0#8)], []⟩) = false := by decide
theorem test_ring_number_refused : wellFormed (.kick 8 quiet) = false := by decide
theorem test_unowned_request_refused :
    wellFormed (.cardQuery { ask 3 (le 7 serial) with byte0 := 0#8 }) = false := by decide
theorem test_owned_idle_refused : wellFormed (.grantWithoutWork 1#8 (ask 0 [])) = false := by decide
theorem test_known_code_refused :
    wellFormed (.unknownRequestCode 1#8 { ask 0 [] with check := 248#8 }) = false := by decide
theorem test_request_admitted : wellFormed (.cardQuery (ask 3 (le 7 serial))) = true := by decide

/-! ## Worked cases of the manual -/

/-- R32, R35: the guest card of the worked case of the Card Store. -/
theorem test_bucket : bucketOf (163 * 2 ^ 40 + 5000000) = 2112 := by decide
theorem test_issuer_group : issuerGroup 163 = 47 := by decide
theorem test_issuer_accepted : absentCard cfg (163 * 2 ^ 40 + 5000000) = .accepted := by decide

/-- R80 to R87: the member commute, cases A and B, on day 1. -/
theorem test_fare_case_a :
    computeFare cfg tar { card with balance := 1230, carry := 200, capDay := 1, daySpent := 90000 }
      ⟨86400 + 29420, 86400 + 34025, .member, false⟩ =
      ⟨80, 26666, 12400, 49, 0, 1181, 56, 1, 102400, false⟩ := by decide
theorem test_fare_case_b :
    computeFare cfg tar { card with balance := 1230, carry := 200, capDay := 0, daySpent := 90000 }
      ⟨86400 + 29420, 86400 + 34025, .member, false⟩ =
      ⟨80, 26666, 26666, 104, 0, 1126, 242, 1, 26666, false⟩ := by decide

/-- R41: a balance of −999,900 credited with −500, and a SUSPENDED card at −350 credited with 350 and 349. -/
theorem test_credit_write_off :
    creditedCard { card with balance := -999900 } (-500) = ({ card with balance := -1000000 }, 400) := by decide
theorem test_credit_reinstates :
    (creditedCard { card with balance := -350, status := .suspended } 350).1.status = .active ∧
      (creditedCard { card with balance := -350, status := .suspended } 349).1.status = .suspended := by decide

/-- R134: the halving of a net flow. -/
theorem test_halved : [127, 5, 1, -1, -5, -127].map halved = [63, 2, 0, 0, -2, -63] := by decide

/-- R154: a ring size of 100 becomes 64, one below 16 becomes 16, one above 256 becomes 256. -/
theorem test_ring_sizes : [100, 0, 300, 32, 255].map ringSize = [64, 16, 256, 32, 128] := by decide

/-- R101, worked sequence of a full ticket table: WAITING gives the position 1 alone; a merge into a pending cause
gives the cause alone. -/
theorem test_waiting_position :
    indicationRecord noStore (.dock 123) (.waiting .dPower 1) = [2#8, 1#8, 0#8, 0#8, 0#8] := by decide
theorem test_merged_pending :
    indicationRecord noStore (.dock 123) (.mergedPending .dPower 1) = [3#8, 7#8, 0#8, 0#8] := by decide

/-- R178: a STOP with no work in hand and no load in flight ends at once, with STOP_DONE and no STOP pending. -/
theorem test_stop_at_once :
    (stopEngine (ready 3 noStore)).engine = ⟨.stopped, false, true, .ok, false⟩ ∧
      (stopEngine (ready 3 noStore)).port.events = 512#10 := by decide

/-- R179: while the reset pin is asserted a write of the index port is not answered. -/
theorem test_asserted :
    (portAccess (writeIndex · 5#16) (resetPart true (ready 3 noStore))).port.index = 0#4 ∧
      (portAccess (writeIndex · 5#16) (resetPart false (ready 3 noStore))).port.index = 5#4 := by decide

/-- R168, R169: the counts of the worked sequence under a heavy dock load. -/
def loaded (d t o b : Nat) : State :=
  { ready 0 noStore with
    bulk := some ⟨0, 9, 0, 0, 0, 0, 0⟩
    rings :=
      { State.reset.rings with
        rings := [0, 1, 3].map (fun n => (n, ⟨.ready, false, 0, 0, ⟨4096, 16⟩, ⟨8192, 16⟩⟩)) }
    passOver := [(0, d), (2, t), (4, o), (5, b)] }
theorem test_arbiter_dock_first : arbiterChoice (loaded 0 7 7 7) = some (.ring 0) := by decide
theorem test_arbiter_starved_first :
    arbiterChoice (loaded 0 8 8 8) = some (.ring 1) ∧ arbiterChoice (loaded 2 1 0 8) = some .bulk := by decide
theorem test_counts_after_grant :
    requesters.map (countAfterGrant (loaded 0 8 8 8) (.ring 1)) = [1, 0, 0, 0, 8, 8] := by decide

/-- R136, R137: a station closed shows nothing but the closed field. -/
theorem test_closed_word :
    indicatorWord { formattedStation with isDefined := true, dockCount := 4, census := ⟨0, 0, 0, 4, 0⟩ } =
      32#16 := by decide

/-- R142: the clock stays at its greatest value. -/
theorem test_clock_stands : ticked (some 4294967295) = some 4294967295 := by decide

/-- R183: a written descriptor sums to 255. -/
theorem test_sealed_sum :
    byteSum 32 (fromBytes (responseBytes 30#8 5#32 { outcome := .notFound } false false)) = 255 := by decide

/-- A word of the table spells no command: no row gives bits. -/
theorem test_no_bits : decodeTableWord 8 1 = none := rfl

/-! ## The premises of the statements are met: the step, the invariants -/

theorem takes {code : Byte} {q : Request} {s : State}
    (h : (granted q s && owned q && q.hub.answers.isEmpty && (descriptorCheck s code q).isNone) = true) :
    Takes code q s := by
  simp only [Bool.and_eq_true, List.isEmpty_iff, Option.isNone_iff_eq_none] at h
  obtain ⟨⟨⟨a, b⟩, c⟩, d⟩ := h
  exact ⟨a, b, by simp [CleanBus, c], d⟩

theorem quiet_clean : CleanBus quiet := by intro a h; cases h

theorem forall_one {α : Type} {P : α → Prop} {d v : α} {k : Nat} (hd : P d) (hv : P v) (i : Nat) :
    P (readAt d [(k, v)] i) := by
  simp only [readAt]; split <;> assumption

/-- A part with records `st` and one tick waiting. -/
def ticking (st : Store) : State := { ready 3 st with pending := [.tick] }

theorem met_step_takes_front : (ticking noStore).pending = .tick :: [] := rfl

theorem met_ascending :
    ∃ s t, ascending s.store.timer.deadlines = true ∧ step s = .next t :=
  ⟨ticking { noStore with
    timer := ⟨some 4294967295, 0#16, [⟨.trendEpoch, 5⟩, ⟨.claimExpiry 7, 5⟩, ⟨.lost hireId, 4294967295⟩]⟩ },
    _, by decide, rfl⟩

theorem met_trend : ∃ s t, TrendAgrees s.store ∧ step s = .next t :=
  ⟨ticking { noStore with fleet.stations := [(31, { formattedStation with netFlow := -127, direction := .emptying })] },
    _, fun i => forall_one (P := fun r : Station => -127 ≤ r.netFlow ∧ r.netFlow ≤ 127 ∧
      r.direction = directionOf r.netFlow) (by decide) (by decide) i, rfl⟩

theorem met_times : ∃ s t, TimesInRange s.store.timer ∧ step s = .next t :=
  ⟨ticking { noStore with timer := ⟨some 4294967295, 0#16, [⟨.trendEpoch, 4294967295⟩]⟩ }, _,
    ⟨fun _ h => by cases h; decide, by decide⟩, rfl⟩

theorem met_canonical : ∃ s t, Canonical s ∧ step s = .next t :=
  ⟨ticking (stationed (withCard card noStore)), _, by unfold Canonical; decide, rfl⟩

theorem met_counts : ∃ s t, CountsInRange s ∧ step s = .next t :=
  ⟨{ ticking noStore with passOver := [(5, 8)] }, _,
    fun k => forall_one (P := fun n : Nat => n ≤ Config.passOverMax) (by decide) (by decide) k, rfl⟩

theorem met_rests : ∃ s t, RestsUnlessRunning s ∧ s.engine.state ≠ .running ∧ step s = .next t :=
  ⟨{ State.reset with engine := ⟨.initializing .keep, false, true, .ok, false⟩, pending := [.tick] }, _,
    ⟨fun _ => ⟨rfl, rfl, by decide⟩, fun h => by cases h⟩, by decide, rfl⟩

theorem met_rests_asserted :
    ∃ s t, RestsUnlessRunning s ∧ s.engine.resetAsserted = true ∧ step s = .next t :=
  ⟨{ State.reset with engine := ⟨.stopped, false, false, .none, true⟩, pending := [.tick] }, _,
    ⟨fun _ => ⟨rfl, rfl, by decide⟩, fun _ => ⟨rfl, rfl⟩⟩, rfl, rfl⟩

theorem met_load_accounts : ∃ s t, LoadAccounts s ∧ step s = .next t :=
  ⟨{ ticking noStore with
    bulk := some ⟨4096, 4096, 4095, 4000, 90, 5, 4095⟩, rings.reserved := some ⟨15, 5#32⟩ }, _,
    ⟨rfl, fun _ h => by cases h; decide⟩, rfl⟩

/-- A card at the ends of its ranges. -/
def fullCard : Card :=
  { card with
    balance := -1000000, carry := 255, openHires := [⟨0, 0⟩, ⟨1, 0⟩, ⟨2, 0⟩, hireId]
    daySpent := 16777215, reportsToday := 255 }

/-- Records with that one card. -/
def oneCard : Store := { noStore with cards := ⟨[(16383, some fullCard)], [(1029, [16383])], [0]⟩ }

theorem one_card {k : Nat} {c : Card} (h : cardAt oneCard k = some c) : k = 16383 ∧ c = fullCard := by
  simp only [cardAt, oneCard, readAt] at h
  split at h
  · cases h; exact ⟨Eq.symm ‹_›, rfl⟩
  · cases h

theorem met_cards : ∃ s t, CardsInRange s.store ∧ step s = .next t :=
  ⟨ticking oneCard, _,
    ⟨fun _ _ h => by obtain ⟨rfl, rfl⟩ := one_card h; constructor <;> decide, by decide⟩, rfl⟩

theorem met_card_index : ∃ s t, CardIndex s ∧ step s = .next t :=
  ⟨{ ticking oneCard with engine.formatted := false }, _,
    { freeOnce := by decide
      free := by decide
      placed := fun _ _ h => by obtain ⟨rfl, rfl⟩ := one_card h; decide
      chained := fun b k h => by
        change k ∈ readAt [] [(1029, [16383])] b at h
        simp only [readAt] at h
        split at h
        · obtain rfl := List.mem_singleton.1 h; subst b; exact ⟨fullCard, rfl, by decide⟩
        · cases h
      chainedOnce := fun b => forall_one (P := List.Nodup) (by decide) (by decide) b
      distinct := fun _ _ _ _ h i _ => (one_card h).1.trans (one_card i).1.symm
      allFree := fun h => by cases h }, rfl⟩

theorem met_records : ∃ s t, RecordsInRange s.store ∧ step s = .next t :=
  ⟨ticking { noStore with
      fleet.bikes := [(2047, { formattedBike with fault.strikes := 15, rides := 65535 })]
      fleet.docks := [(1023, { formattedDock with fault.strikes := 15 })]
      fleet.stations := [(31, { formattedStation with
        isDefined := true, firstDock := 960, dockCount := 64
        settings := ⟨⟨64, 64⟩, ⟨0, 0⟩, ⟨2, 5, 5, 64, 64⟩, ⟨0, 0, 0, 0, 0⟩, 64⟩ })]
      fleet.reservationsHeld := 512
      hires := [(1023, ⟨255, none⟩)]
      faults.tickets := [(511, ⟨255, none⟩)]
      vans := [(7, van)] }, _,
    { bikes := fun b => forall_one (P := fun r : Bike => r.fault.strikes ≤ 15 ∧ r.rides ≤ 65535)
        (by decide) (by decide) b
      docks := fun d => forall_one (P := fun r : Dock => r.fault.strikes ≤ 15) (by decide) (by decide) d
      stations := fun i => forall_one (P := StationInRange)
        (by constructor <;> simp [BandInRange, ThresholdsInRange, formattedStation])
        (by constructor <;> simp [BandInRange, ThresholdsInRange, Config.docks]) i
      held := by decide
      hires := fun k => forall_one (P := fun r : HireSlot => r.gen ≤ 255) (by decide) (by decide) k
      tickets := fun k => forall_one (P := fun r : TicketSlot => r.gen ≤ 255) (by decide) (by decide) k
      vans := fun v => forall_one (P := fun r : Van => r.capacity ≤ Config.vanCapacity)
        (by decide) (by decide) v }, rfl⟩

theorem met_setup : ∃ s t, SetupInRange s ∧ s.engine.state = .running ∧ step s = .next t :=
  let places : Table RingPlace := [(0, ⟨4294967295, 256⟩), (1, ⟨0, 16⟩), (2, ⟨0, 32⟩), (3, ⟨0, 128⟩)]
  ⟨{ ticking noStore with
      settings := { cfg with
        requestRings := places, responseRings := places, noticeRing := ⟨0, 16⟩, localOffset := -50400
        releaseWindow := 15, reservationHold := 1800, claimDuration := 300, overduePoint := 172800
        lostPoint := 176400, trendPeriod := 60, bikeStrikeLimit := 15, dockStrikeLimit := 1 }
      rings.notice := ⟨0, 16⟩, rings.noticeIndex := 15 }, _,
    ⟨fun _ => ⟨by constructor <;> (try unfold GoodPlace) <;> decide, by unfold GoodPlace; decide, by decide⟩,
      by unfold GoodPlace; decide⟩, rfl, rfl⟩

theorem knots_sound : CurveSound tar.memberCurve ∧ CurveSound tar.casualCurve :=
  ⟨⟨by decide, ⟨0, _, rfl⟩, by decide, by decide⟩, ⟨by decide, ⟨256, _, rfl⟩, by decide, by decide⟩⟩

theorem met_tariff : ∃ s t, TariffInForceSound s.store ∧ s.store.tariff.loaded = true ∧ step s = .next t :=
  ⟨ticking (records 5), _,
    fun _ =>
      { classes := by refine ⟨?_, ?_, ?_, ?_⟩ <;> constructor <;> decide
        curves := knots_sound
        grid := by decide
        windows := by decide
        grace := by decide
        billingStep := by decide
        waiverWindow := by decide
        lostFee := by decide }, rfl, rfl⟩

/-! ## The premises of the statements are met: cards -/

/-- A foreign serial of an accepted issuer (R35), and records with the example tariff and card. -/
def foreign : Nat := 163 * 2 ^ 40 + 5000000
def known : Store := withCard card (records 100)

theorem met_card_queries :
    (∃ q s slot c, Takes 30#8 q s ∧ Names s.store (param q 0 7) slot c) ∧
    (∃ q s slot c, Takes 4#8 q s ∧ Names s.store (param q 0 7) slot c) ∧
    ∃ q s, Takes 4#8 q s ∧ param q 0 7 ≠ Config.serialAbsent ∧ namedCard s.store (param q 0 7) = none ∧
      ForeignAccepted s.settings (param q 0 7) :=
  ⟨⟨ask 3 (le 7 serial), ready 3 known, 16383, card, takes (by decide), by decide, by decide⟩,
    ⟨ask 1 (le 7 serial), ready 1 known, 16383, card, takes (by decide), by decide, by decide⟩,
    ⟨ask 1 (le 7 foreign), ready 1 known, takes (by decide), by decide, by decide, by decide, by decide⟩⟩

theorem met_card_put :
    (∃ q s cls slot rest, Takes 26#8 q s ∧ param q 0 7 ≠ Config.serialAbsent ∧
      CardClass.ofCode (param q 7 1) = some cls ∧ param q 8 1 = 2 ∧ param q 9 1 = 4 ∧
      findCard s.store (param q 0 7) = none ∧ signedParam q 12 4 = -1000000 ∧
      s.store.cards.free = slot :: rest) ∧
    ∃ q s cls slot c, Takes 26#8 q s ∧ CardClass.ofCode (param q 7 1) = some cls ∧ param q 8 1 = 0 ∧
      param q 9 1 = 1 ∧ Names s.store (param q 0 7) slot c :=
  ⟨⟨ask 3 (le 7 foreign ++ [3#8, 2#8, 4#8] ++ le 2 65535 ++ leInt 4 (-1000000)), ready 3 known, .crew, 0, [],
      takes (by decide), by decide, rfl, by decide, by decide, by decide, by decide, rfl⟩,
    ⟨ask 3 (le 7 serial ++ [0#8, 0#8, 1#8] ++ le 2 65534 ++ leInt 4 0), ready 3 known, .member, 16383, card,
      takes (by decide), rfl, by decide, by decide, by decide, by decide⟩⟩

/-- A request with the part it is put to, and whether the part takes it. -/
abbrev Put := Request × State
def taken (code : Byte) (p : Put) : Bool :=
  granted p.1 p.2 && owned p.1 && p.1.hub.answers.isEmpty && (descriptorCheck p.2 code p.1).isNone

theorem taken_each {code : Byte} {l : List Put} (h : l.all (taken code) = true) :
    ∀ p ∈ l, Takes code p.1 p.2 := fun p m => takes (List.all_eq_true.1 h p m)

/-- The card `c` credited, given a status, or retired. -/
def credit (c : Card) (amount : Int) : Put := (ask 3 (le 7 serial ++ leInt 4 amount), ready 3 (withCard c known))
def restate (c : Card) (n : Nat) : Put := (ask 3 (le 7 serial ++ le 1 n), ready 3 (withCard c known))
def retire (c : Card) : Put := (ask 3 (le 7 serial), ready 3 (withCard c known))

/-- R41 at the ends of its ranges: too large an amount, an absent card, too high a sum, the highest and the
lowest. -/
theorem met_card_credit :
    let l := [credit card 2000001, credit card (-2000000), credit card 999001, credit card 999000,
      credit fullCard (-1)]
    (∀ p ∈ l, Takes 27#8 p.1 p.2) ∧ (∀ p ∈ l, param p.1 0 7 ≠ Config.serialAbsent) ∧
      l.map (fun p => (signedParam p.1 7 4, (namedCard p.2.store (param p.1 0 7)).map (fun r => r.2.balance))) =
        [(2000001, some 1000), (-2000000, some 1000), (999001, some 1000), (999000, some 1000),
          (-1, some (-1000000))] ∧
      Takes 27#8 (credit card 2000000).1 (ready 3 noStore) ∧
      namedCard noStore (param (credit card 2000000).1 0 7) = none :=
  ⟨taken_each (by decide), by decide, by decide, takes (by decide), by decide⟩

/-- R42: an undefined action, an absent card, a block of a RETIRING card and of another, a clear of each. -/
theorem met_card_status :
    let l := [restate card 2, restate { card with status := .retiring } 0, restate card 0,
      restate { card with status := .blocked } 1, restate card 1]
    (∀ p ∈ l, Takes 28#8 p.1 p.2) ∧ (∀ p ∈ l, param p.1 0 7 ≠ Config.serialAbsent) ∧
      l.map (fun p => (param p.1 7 1, (namedCard p.2.store (param p.1 0 7)).map (fun r => r.2.status))) =
        [(2, some .active), (0, some .retiring), (0, some .active), (1, some .blocked), (1, some .active)] ∧
      Takes 28#8 (restate card 1).1 (ready 3 noStore) ∧
      namedCard noStore (param (restate card 1).1 0 7) = none :=
  ⟨taken_each (by decide), by decide, by decide, takes (by decide), by decide⟩

/-- R43: with and without an open hire, with and without a reservation. -/
theorem met_card_retire :
    let l := [retire card, retire fullCard, retire { card with reservation := some ⟨2047, 31⟩ },
      retire { fullCard with reservation := some ⟨2047, 31⟩ }]
    (∀ p ∈ l, Takes 29#8 p.1 p.2) ∧ (∀ p ∈ l, param p.1 0 7 ≠ Config.serialAbsent) ∧
      l.map (fun p => (namedCard p.2.store (param p.1 0 7)).map
          (fun r => (r.1, r.2.openHires.length, r.2.reservation.isSome))) =
        [some (16383, 0, false), some (16383, 4, false), some (16383, 0, true), some (16383, 4, true)] :=
  ⟨taken_each (by decide), by decide, by decide⟩

/-- A RUNNING part, ring `ring` READY, with a load in flight of which `n` images of `count` are done. -/
def bulkAt (ring n count : Nat) : State :=
  { ready ring known with bulk := some ⟨8192, count, n, 0, 0, n, n⟩, rings.reserved := some ⟨14, 5#32⟩ }

theorem met_bulk_load :
    let load (n : Nat) : Request := ask 3 (le 4 8192 ++ le 2 n)
    Takes 31#8 (load 1) (ready 3 known) ∧ param (load 1) 4 2 = 1 ∧
      Takes 31#8 (load 4096) (ready 3 known) ∧ param (load 4096) 4 2 = 4096 ∧ (ready 3 known).bulk = none ∧
      Takes 31#8 (load 4096) (bulkAt 3 0 2) ∧ (bulkAt 3 0 2).bulk.isSome = true :=
  ⟨takes (by decide), by decide, takes (by decide), by decide, rfl, takes (by decide), rfl⟩

/-- An image of a bulk load as one number (R185). -/
def image (serial cls opening : Int) : Nat :=
  fromBytes (leInt 7 serial ++ leInt 1 cls ++ [0#8, 1#8, 255#8, 255#8] ++ leInt 4 opening)

/-- R47: an image before the last and the last; an image refused for its class, one of a present card, one with
too high an opening balance, one with the highest. -/
theorem met_bulk_image :
    (∀ n ∈ [0, 1], arbiterChoice (bulkAt 4 n 2) = some .bulk ∧ (bulkAt 4 n 2).bulk.isSome = true) ∧
    CleanBus quiet ∧ (bulkAt 4 1 2).rings.reserved.isSome = true ∧
    goodImage (imageOf (image serial 4 0)) = false ∧
    [image serial 3 0, image foreign 0 1000001, image foreign 0 1000000].map (fun b =>
        (goodImage (imageOf b), findCard known (imageOf b).serial, (imageOf b).opening)) =
      [(true, some 16383, 0), (true, none, 1000001), (true, none, 1000000)] ∧ known.cards.free = [0] :=
  ⟨by decide, quiet_clean, rfl, by decide, by decide, rfl⟩

/-! ## The premises of the statements are met: hires, fares, the tariff -/

/-- The example card at work: station 31 with bike 2,047 DOCKED in dock 1,023. -/
def atStation : Store := stationed known

/-- A card that holds a reservation on bike 2,047 at station 31. -/
def reserved : Store :=
  let st := stationed (withCard { card with reservation := some ⟨2047, 31⟩ } (records 100))
  let st := putBike st 2047 { formattedBike with state := .docked, place := some (.dock 1023), heldFor := some 16383 }
  { st with
    fleet.reservationsHeld := 1
    timer.deadlines := [⟨.holdExpiry 2047, 101⟩] }

theorem met_hire_query :
    let st := hired .riding (some 50) .onHire (.hire hireId) (records 100)
    let byHire (slot gen : Nat) : Request := ask 1 (le 1 0 ++ le 2 slot ++ le 1 gen ++ le 4 0)
    (Takes 6#8 (byHire 1023 255) (ready 1 st) ∧ param (byHire 1023 255) 0 1 = 0 ∧
      param (byHire 1023 255) 1 2 < 1024 ∧ (hireAt st hireId).isSome = true) ∧
    (Takes 6#8 (byHire 1023 254) (ready 1 st) ∧ hireAt st ⟨param (byHire 1023 254) 1 2, param (byHire 1023 254) 3 1⟩ = none) ∧
    ∃ q s slot c, Takes 6#8 q s ∧ param q 0 1 = 1 ∧ Names s.store (param q 1 7) slot c :=
  ⟨⟨takes (by decide), by decide, by decide, by decide⟩, ⟨takes (by decide), by decide⟩,
    ask 1 (le 1 1 ++ le 7 serial), ready 1 known, 16383, card, takes (by decide), by decide, by decide, by decide⟩

/-- R51: a present card with a dock named, a guest created with none named, and a card with its reservation. -/
theorem met_release :
    (∃ q s slot c st b k now, Takes 5#8 q s ∧ ReleaseCard s (param q 0 7) slot c st ∧ param q 7 1 = 31 ∧
      param q 8 2 = 1023 ∧ s.store.timer.clock = some now ∧ s.store.tariff.loaded = true ∧
      (stationAt s.store (param q 7 1)).isDefined = true ∧ Standing s.settings st now c ∧
      freeHireSlot st = some k ∧ chooseRelease st slot c (param q 7 1) (dockParam (param q 8 2)) = .ok b ∧
      (bikeAt s.store b).place = some (.dock 1023)) ∧
    (∃ q s slot c st b k now, Takes 5#8 q s ∧ ReleaseCard s (param q 0 7) slot c st ∧ param q 7 1 = 31 ∧
      param q 8 2 = 65535 ∧ s.store.timer.clock = some now ∧ s.store.tariff.loaded = true ∧
      (stationAt s.store (param q 7 1)).isDefined = true ∧ Standing s.settings st now c ∧
      freeHireSlot st = some k ∧ chooseRelease st slot c (param q 7 1) (dockParam (param q 8 2)) = .ok b ∧
      (bikeAt s.store b).place = some (.dock 1023) ∧ c.guest = true) ∧
    ∃ q s slot c b k, Takes 5#8 q s ∧ ReleaseCard s (param q 0 7) slot c s.store ∧
      freeHireSlot s.store = some k ∧
      chooseRelease s.store slot c (param q 7 1) (dockParam (param q 8 2)) = .ok b ∧
      (bikeAt s.store b).heldFor = some slot :=
  let free := { tar with guest := noClass }
  let st := { atStation with tariff := ⟨true, free⟩ }
  ⟨⟨ask 1 (le 7 serial ++ le 1 31 ++ le 2 1023), ready 1 atStation, 16383, card, atStation, 2047, 0, 100,
      takes (by decide), ⟨by decide, .inl ⟨by decide, rfl⟩⟩, by decide, by decide, rfl, rfl, by decide,
      ⟨rfl, nofun, by decide, by decide⟩, by decide, rfl, by decide⟩,
    ⟨ask 1 (le 7 foreign ++ le 1 31 ++ le 2 65535), ready 1 st, 0,
      ⟨foreign, .guest, .active, true, 0, 0, 0, [], 1, none, 0, 0, none, 0, 0⟩, _, 2047, 0, 100,
      takes (by decide),
      ⟨by decide, .inr ⟨by decide, ⟨by decide, by decide⟩, rfl, [], rfl, rfl⟩⟩, by decide, by decide, rfl, rfl,
      by decide, ⟨rfl, nofun, by decide, by decide⟩, by decide, rfl, by decide, rfl⟩,
    ⟨ask 1 (le 7 serial ++ le 1 31 ++ le 2 65535), ready 1 reserved, 16383,
      { card with reservation := some ⟨2047, 31⟩ }, 2047, 0, takes (by decide),
      ⟨by decide, .inl ⟨by decide, rfl⟩⟩, by decide, rfl, by decide⟩⟩

theorem expires {d : Deadline} {s : State} (h : grantedHead s = some d) : Expires d quiet s := ⟨h, quiet_clean⟩

theorem met_reservations :
    (∃ q s slot c b now, Takes 32#8 q s ∧ Names s.store (param q 0 7) slot c ∧ param q 7 1 = 31 ∧
      s.store.timer.clock = some now ∧ s.store.tariff.loaded = true ∧
      (stationAt s.store (param q 7 1)).isDefined = true ∧ Standing s.settings s.store now c ∧
      (freeHireSlot s.store).isSome = true ∧ c.reservation = none ∧ s.store.fleet.reservationsHeld = 511 ∧
      chooseUsable s.store (param q 7 1) = some b) ∧
    (∃ q s slot c r, Takes 7#8 q s ∧ Names s.store (param q 0 7) slot c ∧ c.reservation = some r) ∧
    ∃ s slot c r, Expires (.holdExpiry 2047) quiet s ∧ (bikeAt s.store 2047).heldFor = some slot ∧
      cardAt s.store slot = some c ∧ c.reservation = some r :=
  ⟨⟨ask 3 (le 7 serial ++ le 1 31), ready 3 { atStation with fleet.reservationsHeld := 511 }, 16383, card, 2047,
      100, takes (by decide), ⟨by decide, by decide⟩, by decide, rfl, rfl, by decide,
      ⟨rfl, nofun, by decide, by decide⟩, by decide, rfl, rfl, by decide⟩,
    ⟨ask 1 (le 7 serial), ready 1 reserved, 16383, { card with reservation := some ⟨2047, 31⟩ }, ⟨2047, 31⟩,
      takes (by decide), ⟨by decide, by decide⟩, rfl⟩,
    ⟨timed reserved [⟨.holdExpiry 2047, 100⟩], 16383, { card with reservation := some ⟨2047, 31⟩ }, ⟨2047, 31⟩, expires (by decide),
      by decide, by decide, rfl⟩⟩

theorem met_release_lapses :
    ∃ s r c, Expires (.releaseWindow hireId) quiet s ∧ s.store.timer.clock = some 100 ∧
      hireAt s.store hireId = some r ∧ r.state = .releasing ∧ cardAt s.store r.card = some c :=
  ⟨timed (hired .releasing none .releasing (.dock 1023) (records 100)) [⟨.releaseWindow hireId, 100⟩],
    ⟨.releasing, 16383, 2047, 1023, 100, none, 500, .member⟩,
    { card with openHires := [hireId], holdTotal := 500 }, expires (by decide), by decide, by decide, rfl,
    by decide⟩

theorem met_overdue_lost :
    (∃ s r, Expires (.overdue hireId) quiet s ∧ hireAt s.store hireId = some r ∧ r.state = .riding ∧
      r.startTime = some 50) ∧
    ∃ s r c, Expires (.lost hireId) quiet s ∧ hireAt s.store hireId = some r ∧ r.state = .overdue ∧
      cardAt s.store r.card = some c :=
  ⟨⟨timed (hired .riding (some 50) .onHire (.hire hireId) (records 86450)) [⟨.overdue hireId, 86450⟩],
      ⟨.riding, 16383, 2047, 1023, 100, some 50, 500, .member⟩, expires (by decide), by decide, rfl, rfl⟩,
    ⟨timed (hired .overdue (some 50) .onHire (.hire hireId) (records 259250)) [⟨.lost hireId, 259250⟩],
      ⟨.overdue, 16383, 2047, 1023, 100, some 50, 500, .member⟩,
      { card with openHires := [hireId], holdTotal := 500 }, expires (by decide), by decide, rfl, by decide⟩⟩

/-- R80: a ride one second past the waiver window whose report was accepted, and one at its end. -/
theorem met_fare_stages :
    1 ≤ tar.billingStep ∧
      ¬ ((⟨1000, 1121, .member, true⟩ : FareInput).accepted = true ∧ 1121 - 1000 ≤ tar.waiverWindow) ∧
      (computeFare cfg tar card ⟨1000, 1120, .member, true⟩).waived = true := by decide

theorem met_curve :
    CurveSound tar.memberCurve ∧ tar.memberCurve[0]? = some ⟨0, 0⟩ ∧ tar.memberCurve[1]? = some ⟨60, 25600⟩ ∧
      tar.memberCurve[tar.memberCurve.length - 2]? = some ⟨120, 64000⟩ ∧
      tar.memberCurve[tar.memberCurve.length - 1]? = some ⟨240, 153600⟩ ∧
      [0, 59, 60, 240].map (curveFare tar.memberCurve) = [0, 25173, 25600, 153600] :=
  ⟨knots_sound.1, rfl, rfl, rfl, rfl, by decide⟩

/-- The hub processor's stores of the least tariff block that the checks of R77 let through, at 65,536. -/
def block : List Host.Cell :=
  [(65536 + 72, 2#8), (65536 + 73, 2#8), (65536 + 80, 1#8), (65536 + 176, 1#8), (65536 + 266, 1#8)]
def loadTariff (l : List Host.Cell) : Request := { ask 3 (le 4 65536 ++ le 2 300) with hub := ⟨l, []⟩ }

set_option maxRecDepth 10000 in
set_option exponentiation.threshold 300 in
theorem met_tariff_load :
    Takes 20#8 (loadTariff block) (ready 3 noStore) ∧ param (loadTariff block) 4 2 = 300 ∧
      tariffRefusal false (memRead (takenMem 20#8 (loadTariff block) (ready 3 noStore)) 65536 300) = none ∧
      Takes 20#8 (loadTariff []) (ready 3 noStore) ∧
      tariffRefusal false (memRead (takenMem 20#8 (loadTariff []) (ready 3 noStore)) 65536 300) =
        some (2, [0#8]) :=
  ⟨takes (by decide), by decide, by decide, takes (by decide), by decide⟩

/-! ## The premises of the statements are met: the fleet tables -/

/-- Van 7 at work: `carries` as its manifest, `claim` and `load` as they are, and dock 1,023's bike in `b`. -/
def crewAt (c : Option Claim) (load : Option Nat) (carries : List Nat) (b : Bike) : Store :=
  let st := putVan (stationed (records 100)) 7 { van with claim := c, load := load, manifest := carries }
  putBike st 2047 b
def dockedBike : Bike := { formattedBike with state := .docked, place := some (.dock 1023) }
def claim : Option Claim := some ⟨31, 1300⟩

theorem crew_named {l : List Byte} {st : Store}
    (h : ((vanAt st 7).isDefined && (vanAt st 7).crew == some serial && param (vanAsk l) 0 1 == 7 &&
      param (vanAsk l) 1 7 == serial) = true) : Crewed st (vanAsk l) 7 := by
  simp only [Bool.and_eq_true, beq_iff_eq] at h
  obtain ⟨⟨⟨a, b⟩, c⟩, d⟩ := h
  exact ⟨c, by decide, a, by rw [d]; decide, by rw [d]; exact b⟩

theorem met_queries :
    (Takes 36#8 (ask 3 (le 2 2047)) (ready 3 atStation) ∧ param (ask 3 (le 2 2047)) 0 2 < 2048) ∧
    (∀ k ∈ [0, 1], param (ask 3 (le 1 31 ++ le 1 k)) 0 1 < 32 ∧ param (ask 3 (le 1 31 ++ le 1 k)) 1 1 = k) ∧
    (∀ p ∈ [(ask 3 (le 1 31 ++ le 1 0), ready 3 atStation), (ask 3 (le 1 31 ++ le 1 1), ready 3 atStation)],
      Takes 37#8 p.1 p.2) ∧ (stationAt atStation 31).isDefined = true ∧
    Takes 18#8 (vanAsk []) (ready 2 (crewAt claim none [] dockedBike)) ∧
      Crewed (crewAt claim none [] dockedBike) (vanAsk []) 7 :=
  ⟨⟨takes (by decide), by decide⟩, by decide, taken_each (by decide), by decide, takes (by decide),
    crew_named (by decide)⟩

/-- A ticket in slot 511, generation 255, on subject `sub` with cause `c`. -/
def ticketed (st : Store) (sub : Subject) (c : Cause) : Store :=
  let st := putTicketSlot st 511 ⟨255, some ⟨sub, c, .opened, some 50, none⟩⟩
  match sub with
  | .bike b => putBike st b { bikeAt st b with fault := ⟨some ⟨511, 255⟩, none, 1, false⟩ }
  | .dock d =>
    putDock st d { dockAt st d with service := .outOfService, fault := ⟨some ⟨511, 255⟩, none, 1, false⟩ }

theorem met_ticket_queries :
    let st := ticketed atStation (.bike 2047) .bReported
    let byId := ask 3 (le 1 0 ++ le 2 511 ++ le 1 255)
    let bySubject := ask 3 (le 1 1 ++ le 1 1 ++ le 2 1023)
    Takes 35#8 byId (ready 3 st) ∧ param byId 0 1 = 0 ∧ (handleParam byId 1).slot < 512 ∧
      (ticketAt st (handleParam byId 1)).isSome = true ∧ Takes 35#8 bySubject (ready 3 st) ∧
      param bySubject 0 1 = 1 ∧
      subjectParam (param bySubject 1 1) (param bySubject 2 2) = some (.dock 1023) ∧
      Takes 35#8 (ask 3 (le 1 2 ++ le 3 0)) (ready 3 st) ∧ param (ask 3 (le 1 2 ++ le 3 0)) 0 1 = 2 :=
  ⟨takes (by decide), by decide, by decide, by decide, takes (by decide), by decide, by decide,
    takes (by decide), by decide⟩

/-- Station 31 with the empty docks 1,019 to 1,022, asked for the range of 64 docks from 960. -/
def define : Request := ask 3 (le 1 31 ++ le 2 960 ++ le 1 64 ++ [0#8, 64#8, 65#8, 3#8, 2#8, 5#8, 4#8, 70#8, 9#8])
def smaller : Store :=
  let st := putStation noStore 31 { formattedStation with isDefined := true, firstDock := 959, dockCount := 2 }
  let st := putDock st 959 { formattedDock with station := some 31, service := .inService }
  putDock st 960 { formattedDock with station := some 31, service := .inService }

theorem met_station_define :
    let q := { define with length := 19#8 }
    Takes 21#8 q (ready 3 smaller) ∧ param q 0 1 = 31 ∧ param q 1 2 = 960 ∧ param q 3 1 = 64 ∧
      rangeRefusal smaller 31 960 64 = 0 :=
  ⟨takes (by decide), by decide, by decide, by decide, by decide⟩

theorem met_commissioning :
    (Takes 23#8 (ask 3 (le 2 2047)) (ready 3 noStore) ∧ (bikeAt noStore 2047).state = .uncommissioned) ∧
    (∃ q s, Takes 24#8 q s ∧ param q 0 2 = 2047 ∧ (bikeAt s.store 2047).state = .missing ∧
      (bikeAt s.store 2047).fault.ticket = none) ∧
    ∃ q s, Takes 25#8 q s ∧ param q 0 2 = 1020 ∧ (dockAt s.store 1020).service = .retired ∧
      ∀ b, (dockAt s.store 1020).content ≠ .bike b :=
  ⟨⟨takes (by decide), by decide⟩,
    ⟨ask 3 (le 2 2047), ready 3 (putBike noStore 2047 { formattedBike with state := .missing }),
      takes (by decide), by decide, by decide, by decide⟩,
    ⟨ask 3 (le 2 1020),
      ready 3 (putDock atStation 1020 { formattedDock with station := some 31, service := .retired }),
      takes (by decide), by decide, by decide, nofun⟩⟩

/-- Station 31 wants bikes: its peak and off-peak low is 64. -/
def wanting (st : Store) : Store :=
  putStation st 31 { stationAt st 31 with settings.peakBand := ⟨64, 64⟩, settings.offPeakBand := ⟨64, 64⟩ }

theorem met_choices :
    chooseUsable atStation 31 = some 2047 ∧ chooseUsable noStore 0 = none ∧
      chooseStation cfg (wanting (crewAt none none [2046] dockedBike)) 7 2 = some 31 ∧
      chooseStation cfg noStore 7 2 = none := by decide

/-! ## The premises of the statements are met: arrivals and removals -/

/-- An arrival of bike 2,046 at dock 1,020, and the part it is put to, where the bike is `b`. -/
def arrival : Request := ask 0 (le 2 1020 ++ le 2 2046 ++ [0#8, 0#8])
def arrivalAt (st : Store) (b : Bike) : State := ready 0 (putBike st 2046 b)

theorem met_arrival_settles :
    ∃ s h r c, Takes 1#8 arrival s ∧ param arrival 0 2 = 1020 ∧ param arrival 2 2 = 2046 ∧
      param arrival 4 1 = 0 ∧ param arrival 5 1 = 0 ∧ (dockAt s.store 1020).service = .inService ∧
      (dockAt s.store 1020).content = .empty ∧ (bikeAt s.store 2046).state = .onHire ∧
      (bikeAt s.store 2046).hire = some h ∧ hireAt s.store h = some r ∧ r.startTime = some 50 ∧
      cardAt s.store r.card = some c ∧ s.store.timer.clock = some 100 ∧
      s.settings.serviceInterval ≠ min ((bikeAt s.store 2046).rides + 1) 65535 :=
  let st := hired .riding (some 50) .onHire (.hire hireId) (records 100)
  ⟨arrivalAt (putHireSlot st 1023 ⟨255, some ⟨.riding, 16383, 2046, 1023, 40, some 50, 500, .member⟩⟩)
      { formattedBike with state := .onHire, place := some (.hire hireId), hire := some hireId },
    hireId, ⟨.riding, 16383, 2046, 1023, 40, some 50, 500, .member⟩,
    { card with openHires := [hireId], holdTotal := 500 }, takes (by decide), by decide, by decide, by decide,
    by decide, by decide, by decide, by decide, by decide, by decide, rfl, by decide, by decide, by decide⟩

theorem met_arrival_found :
    let missing := arrivalAt atStation { formattedBike with state := .missing }
    let inVan := arrivalAt (crewAt none none [2046] dockedBike)
      { formattedBike with state := .inVan, place := some (.van 7) }
    Takes 1#8 arrival missing ∧ Takes 1#8 arrival inVan ∧
      (∀ s ∈ [missing, inVan], (dockAt s.store 1020).service = .inService ∧
        (dockAt s.store 1020).content = .empty) ∧
      (bikeAt missing.store 2046).state = .missing ∧ (bikeAt inVan.store 2046).state = .inVan ∧
      (bikeAt inVan.store 2046).place = some (.van 7) :=
  ⟨takes (by decide), takes (by decide), by decide, by decide, by decide, by decide⟩

/-- A removal at dock 1,023 of a report `n`. -/
def removal (n : Nat) : Request := ask 0 (le 2 1023 ++ le 2 n)

theorem met_removal :
    (∃ s h r, Takes 2#8 (removal 2047) s ∧ param (removal 2047) 2 2 = 2047 ∧
      (dockAt s.store 1023).service = .inService ∧ (dockAt s.store 1023).content = .bike 2047 ∧
      s.store.timer.clock = some 100 ∧ (dockAt s.store 1023).latch = .openForHire h ∧
      hireAt s.store h = some r ∧ r.bike = 2047) ∧
    ∃ s, Takes 2#8 (removal 65534) s ∧ param (removal 65534) 2 2 = 65534 ∧
      (dockAt s.store 1023).service = .inService ∧ (dockAt s.store 1023).content = .bike 2047 ∧
      s.store.timer.clock = some 100 ∧ (dockAt s.store 1023).latch = .openForVan 7 :=
  let st := hired .releasing none .releasing (.dock 1023) (records 100)
  let van := crewAt claim (some 1023) [] { dockedBike with state := .loading }
  ⟨⟨ready 0 (putDock st 1023 { dockAt st 1023 with latch := .openForHire hireId }), hireId,
      ⟨.releasing, 16383, 2047, 1023, 100, none, 500, .member⟩, takes (by decide), by decide, by decide,
      by decide, by decide, by decide, by decide, rfl⟩,
    ⟨ready 0 (putDock van 1023 { dockAt van 1023 with latch := .openForVan 7 }), takes (by decide), by decide,
      by decide, by decide, by decide, by decide⟩⟩

/-! ## The premises of the statements are met: faults and tickets -/

theorem readAt_filled {α : Type} (d v : α) (n : Nat) : ∀ lo k, lo ≤ k → k < lo + n →
    readAt d ((List.range' lo n).map (fun j => (j, v))) k = v := by
  induction n with
  | zero => intro lo k _ _; omega
  | succ n ih =>
    intro lo k h i
    simp only [List.range'_succ, List.map_cons, readAt]
    split
    · rfl
    · exact ih (lo + 1) k (by omega) (by omega)

/-- Records whose ticket table is full. -/
def noTickets (st : Store) : Store :=
  { st with
    faults.tickets :=
      (List.range' 0 512).map (fun k => (k, ⟨0, some ⟨.bike 0, .bDamage, .opened, none, none⟩⟩)) }

theorem no_free_ticket (st : Store) : freeTicketSlot (noTickets st) = none := by
  simp only [freeTicketSlot, List.find?_eq_none, List.mem_range'_1]
  intro k h
  simp only [ticketSlotAt, noTickets]
  rw [readAt_filled _ _ 512 0 k h.1 h.2]; decide

/-- A status report `n` on dock 1,023. -/
def report (n : Nat) : Request := ask 0 (le 2 1023 ++ le 1 n)

theorem met_dock_status :
    (∀ n ∈ [0, 1, 2, 3], param (report n) 0 2 = 1023 ∧ param (report n) 2 1 = n) ∧
    (∀ p ∈ [0, 1, 2, 3].map (fun n => (report n, ready 0 atStation)), Takes 3#8 p.1 p.2) ∧
    (dockAt atStation 1023).service = .inService ∧ (dockAt atStation 1023).station = some 31 ∧
    (dockAt atStation 1023).content = .bike 2047 ∧ (bikeAt atStation 2047).heldFor = none ∧
    (dockAt atStation 1023).fault.ticket = none ∧ (dockAt atStation 1023).fault.pending = none ∧
    (freeTicketSlot atStation).isSome = true ∧
    (Takes 3#8 (report 1) (ready 0 (noTickets atStation)) ∧ freeTicketSlot (noTickets atStation) = none ∧
      (noTickets atStation).fleet = atStation.fleet) ∧
    (∃ s, Takes 3#8 (report 3) s ∧ (dockAt s.store 1023).fault.ticket.isSome = true ∧
      (dockAt s.store 1023).service = .outOfService) ∧
    (∃ s, Takes 3#8 (report 3) s ∧ (dockAt s.store 1023).fault = { noFault with pending := some .dPower } ∧
      (dockAt s.store 1023).station = some 31 ∧ (dockAt s.store 1023).service = .outOfService) ∧
    ∃ s, Takes 3#8 (report 3) s ∧ (dockAt s.store 1023).service = .retired :=
  ⟨by decide, taken_each (by decide), by decide, by decide, by decide, by decide, by decide, by decide,
    by decide, ⟨takes (by decide), no_free_ticket _, rfl⟩,
    ⟨ready 0 (ticketed atStation (.dock 1023) .dReader), takes (by decide), by decide, by decide⟩,
    ⟨ready 0 (putDock atStation 1023
      { dockAt atStation 1023 with
        service := .outOfService, content := .empty, fault := { noFault with pending := some .dPower } }),
      takes (by decide), by decide, by decide, by decide⟩,
    ⟨ready 0 (putDock atStation 1023 { dockAt atStation 1023 with service := .retired }), takes (by decide),
      by decide⟩⟩

theorem met_crew_flag :
    (∃ s, Takes 17#8 (vanAsk (le 2 2047)) s ∧ Crewed s.store (vanAsk (le 2 2047)) 7 ∧
      param (vanAsk (le 2 2047)) 8 2 = 2047 ∧ (bikeAt s.store 2047).place = some (.dock 1023) ∧
      claimsDock s.store 7 1023 = true ∧ (bikeAt s.store 2047).heldFor = none ∧
      (bikeAt s.store 2047).fault = noFault ∧ (freeTicketSlot s.store).isSome = true) ∧
    ∃ s, Takes 17#8 (vanAsk (le 2 2047)) s ∧ Crewed s.store (vanAsk (le 2 2047)) 7 ∧
      (bikeAt s.store 2047).place = some (.van 7) ∧ (bikeAt s.store 2047).state = .inVan ∧
      (bikeAt s.store 2047).fault = noFault ∧ (freeTicketSlot s.store).isSome = true :=
  ⟨⟨ready 2 (crewAt claim none [] dockedBike), takes (by decide), crew_named (by decide), by decide, by decide,
      by decide, by decide, by decide, by decide⟩,
    ⟨ready 2 (crewAt none none [2047] { formattedBike with state := .inVan, place := some (.van 7) }),
      takes (by decide), crew_named (by decide), by decide, by decide, by decide, by decide⟩⟩

/-- The ticket 511/255 named by each request that closes one. -/
def ticketId : List Byte := le 2 511 ++ le 1 255
def closes (st : Store) (k : Ticket) : Prop :=
  ticketAt st ⟨511, 255⟩ = some k ∧ (faultOf st k.subject).condemned = false ∧ Serviceable st k.subject ∧
    st.faults.waiting = []

theorem met_tickets_close :
    let onBike := ticketed (crewAt claim none [] dockedBike) (.bike 2047) .bReported
    let onDock := ticketed atStation (.dock 1023) .dLatch
    (Takes 16#8 (vanAsk ticketId) (ready 2 onBike) ∧ Crewed onBike (vanAsk ticketId) 7 ∧
      handleParam (vanAsk ticketId) 8 = ⟨511, 255⟩ ∧ subjectRefusal onBike 7 (.bike 2047) = none ∧
      fieldCloses cfg .bReported = true ∧ closes onBike ⟨.bike 2047, .bReported, .opened, some 50, none⟩) ∧
    (∀ o ∈ [0, 1], handleParam (ask 3 (ticketId ++ le 1 o)) 0 = ⟨511, 255⟩ ∧
      param (ask 3 (ticketId ++ le 1 o)) 3 1 = o) ∧
    (∀ p ∈ [0, 1].map (fun o => (ask 3 (ticketId ++ le 1 o), ready 3 onBike)), Takes 33#8 p.1 p.2) ∧
    Takes 34#8 (ask 3 (le 2 1023)) (ready 3 onDock) ∧
      closes onDock ⟨.dock 1023, .dLatch, .opened, some 50, none⟩ ∧
      (dockAt onDock 1023).fault.ticket = some ⟨511, 255⟩ :=
  ⟨⟨takes (by decide), crew_named (by decide), by decide, by decide, by decide, by decide, by decide, trivial,
      rfl⟩, by decide, taken_each (by decide), takes (by decide),
    ⟨by decide, by decide, ⟨by decide, by decide⟩, rfl⟩, by decide⟩

theorem met_condemned :
    ∃ s, Takes 33#8 (ask 3 (ticketId ++ le 1 0)) s ∧
      ticketAt s.store ⟨511, 255⟩ = some ⟨.bike 2047, .bDamage, .opened, some 50, none⟩ ∧
      (bikeAt s.store 2047).fault.condemned = true ∧ (bikeAt s.store 2047).state = .docked ∧
      (bikeAt s.store 2047).place = some (.dock 1023) ∧ s.store.faults.waiting = [] :=
  ⟨ready 3 (putBike (ticketed atStation (.bike 2047) .bDamage) 2047
      { dockedBike with fault := ⟨some ⟨511, 255⟩, none, 15, true⟩ }),
    takes (by decide), by decide, by decide, by decide, by decide, rfl⟩

theorem met_serving :
    ∃ w : Work, w.store.faults.waiting = [.bike 2047] ∧ freeTicketSlot w.store = some 0 ∧
      (faultOf w.store (.bike 2047)).pending = some .bDamage :=
  ⟨⟨cfg, { putBike noStore 2047 { formattedBike with fault.pending := some .bDamage } with
      faults.waiting := [.bike 2047] }, [], []⟩, rfl, by decide, by decide⟩

/-! ## The premises of the statements are met: vans -/

theorem met_van_define :
    let ask3 (v n : Nat) : Request := ask 3 (le 1 v ++ le 1 n)
    let carrying := ready 3 (crewAt claim (some 1023) [2046] dockedBike)
    (∀ p ∈ [(ask3 8 1, ready 3 noStore), (ask3 7 0, ready 3 noStore), (ask3 7 25, ready 3 noStore),
        (ask3 7 1, carrying), (ask3 7 2, carrying), (ask3 7 24, ready 3 noStore)], Takes 22#8 p.1 p.2) ∧
      [ask3 8 1, ask3 7 0, ask3 7 25, ask3 7 1, ask3 7 2, ask3 7 24].map (fun q => (param q 0 1, param q 1 1)) =
        [(8, 1), (7, 0), (7, 25), (7, 1), (7, 2), (7, 24)] ∧
      (vanAt carrying.store 7).isDefined = true ∧ (vanAt carrying.store 7).manifest.length = 1 ∧
      (vanAt carrying.store 7).load.isSome = true ∧ vanAt noStore 7 = formattedVan :=
  ⟨taken_each (by decide), by decide, by decide, by decide, by decide, by decide⟩

theorem met_shifts :
    (∃ s slot c, Takes 8#8 (vanAsk []) s ∧ param (vanAsk []) 0 1 = 7 ∧ (vanAt s.store 7).isDefined = true ∧
      (vanAt s.store 7).crew = none ∧ Names s.store (param (vanAsk []) 1 7) slot c ∧ c.cls = .crew ∧
      c.status = .active ∧ ∀ u < 8, u ≠ 7 → (vanAt s.store u).crew ≠ some (param (vanAsk []) 1 7)) ∧
    ∃ s, Takes 9#8 (vanAsk []) s ∧ Crewed s.store (vanAsk []) 7 ∧ (vanAt s.store 7).load = none ∧
      (vanAt s.store 7).claim.isSome = true :=
  ⟨⟨ready 2 (putVan (withCard { card with cls := .crew } noStore) 7 { van with crew := none }), 16383,
      { card with cls := .crew }, takes (by decide), by decide, by decide, by decide, ⟨by decide, by decide⟩,
      rfl, rfl, by decide⟩,
    ⟨ready 2 (crewAt claim none [2046] dockedBike), takes (by decide), crew_named (by decide), by decide,
      by decide⟩⟩

theorem met_claims :
    let free := wanting (crewAt none none [2046] dockedBike)
    let held := wanting (crewAt claim none [2046] dockedBike)
    (∀ p ∈ [(vanAsk [2#8], ready 2 free), (vanAsk [0#8], ready 2 held), (vanAsk [1#8], ready 2 free)],
      Takes 10#8 p.1 p.2) ∧
    ([2, 0].map (chooseStation cfg free 7) = [some 31, some 31] ∧ chooseStation cfg held 7 0 = some 31 ∧
      chooseStation cfg free 7 1 = none) ∧
    (∀ n ∈ [0, 1, 2], param (vanAsk [BitVec.ofNat 8 n]) 8 1 = n) ∧
    Crewed free (vanAsk [2#8]) 7 ∧ free.timer.clock = some 100 ∧ (vanAt free 7).load = none ∧
    (Takes 11#8 (vanAsk [31#8]) (ready 2 free) ∧ Crewed free (vanAsk [31#8]) 7 ∧
      param (vanAsk [31#8]) 8 1 = 31 ∧ (stationAt free 31).isDefined = true ∧
      (stationAt free 31).claimedBy = none) ∧
    (Takes 12#8 (vanAsk []) (ready 2 held) ∧ Crewed held (vanAsk []) 7 ∧ (vanAt held 7).load = none ∧
      (vanAt held 7).claim = some ⟨31, 1300⟩) ∧
    ∃ s, Expires (.claimExpiry 7) quiet s ∧ (vanAt s.store 7).claim = some ⟨31, 1300⟩ :=
  ⟨taken_each (by decide), by decide, by decide, crew_named (by decide), rfl, by decide,
    ⟨takes (by decide), crew_named (by decide), by decide, by decide, by decide⟩,
    ⟨takes (by decide), crew_named (by decide), by decide, by decide⟩,
    ⟨timed (crewAt claim none [] dockedBike) [⟨.claimExpiry 7, 100⟩], expires (by decide), by decide⟩⟩

theorem met_loads :
    (∃ s, Takes 13#8 (vanAsk (le 2 1023)) s ∧ Crewed s.store (vanAsk (le 2 1023)) 7 ∧
      param (vanAsk (le 2 1023)) 8 2 = 1023 ∧ s.store.timer.clock = some 100 ∧
      (dockAt s.store 1023).service = .inService ∧ claimsDock s.store 7 1023 = true ∧
      (vanAt s.store 7).load = none ∧ freePlaces (vanAt s.store 7) = 1 ∧
      (dockAt s.store 1023).content = .bike 2047 ∧ (bikeAt s.store 2047).state = .docked ∧
      (bikeAt s.store 2047).heldFor = none) ∧
    ∃ s, Expires (.loadWindow 7) quiet s ∧ (vanAt s.store 7).load = some 1023 ∧
      (dockAt s.store 1023).content = .bike 2047 :=
  ⟨⟨ready 2 (crewAt claim none (List.range 23) dockedBike), takes (by decide), crew_named (by decide),
      by decide, rfl, by decide, by decide, by decide, by decide, by decide, by decide, by decide⟩,
    ⟨timed (crewAt claim (some 1023) [] { dockedBike with state := .loading }) [⟨.loadWindow 7, 100⟩],
      expires (by decide), by decide, by decide⟩⟩

theorem met_workshop :
    (∃ s, Takes 14#8 (vanAsk (le 2 2047)) s ∧ Crewed s.store (vanAsk (le 2 2047)) 7 ∧
      param (vanAsk (le 2 2047)) 8 2 = 2047 ∧ 2047 ∈ (vanAt s.store 7).manifest) ∧
    ∃ s, Takes 15#8 (vanAsk (le 2 2047)) s ∧ Crewed s.store (vanAsk (le 2 2047)) 7 ∧
      (bikeAt s.store 2047).state = .workshop ∧ blocked (bikeAt s.store 2047).fault = false ∧
      freePlaces (vanAt s.store 7) = 1 :=
  ⟨⟨ready 2 (crewAt none none [5, 2047] { formattedBike with state := .inVan, place := some (.van 7) }),
      takes (by decide), crew_named (by decide), by decide, by decide⟩,
    ⟨ready 2 (crewAt none none (List.range 23) { formattedBike with state := .workshop }), takes (by decide),
      crew_named (by decide), by decide, by decide, by decide⟩⟩

/-! ## The premises of the statements are met: the clock, the rings, the port -/

theorem met_clock :
    Takes 19#8 (ask 3 (le 4 4294967295)) (ready 3 noStore) ∧ dueOf noStore .trendEpoch = none ∧
      (∃ s, Takes 19#8 (ask 3 (le 4 4294967295)) s ∧ dueOf s.store .trendEpoch = some 4294967295) ∧
      (controlWord (ready 3 (records 4294967295)) 7#4).toNat = 65535 :=
  ⟨takes (by decide), by decide,
    ⟨ready 3 { noStore with timer := ⟨none, 0#16, [⟨.trendEpoch, 4294967295⟩]⟩ }, takes (by decide), by decide⟩,
    by decide⟩

theorem met_deadlines :
    ascending [⟨.trendEpoch, 5⟩, ⟨.holdExpiry 2047, 5⟩, ⟨.claimExpiry 7, 4294967295⟩] = true := by decide

theorem met_trend_epoch :
    ∃ s, Expires .trendEpoch quiet s ∧ s.store.timer.clock = some 100 ∧
      (stationAt s.store 31).isDefined = true :=
  ⟨timed atStation [⟨.trendEpoch, 100⟩], expires (by decide), rfl, by decide⟩

/-- A part that checks descriptors. -/
def checked : State := { ready 3 noStore with settings.checking := true }

theorem met_no_rule :
    let q := ask 3 (le 7 serial)
    let idle := { q with byte0 := 0#8 }
    granted q (ready 3 noStore) = true ∧ owned q = true ∧ CleanBus q.hub ∧
      descriptorCheck checked 30#8 q = some .descCheck ∧
      descriptorCheck (ready 3 noStore) 36#8 { q with length := 21#8 } = some .badLength ∧
      descriptorCheck (ready 3 noStore) 30#8 { q with ring := 0 } = some .wrongRing ∧
      granted q checked = true ∧ descriptorSum 0#8 q ≠ 255 ∧
      [0#8, 38#8].map codeEntry = [none, none] ∧ granted idle (ready 3 noStore) = true ∧ owned idle = false :=
  ⟨by decide, rfl, quiet_clean, by decide, by decide, by decide, by decide, by decide, by decide, by decide, rfl⟩

theorem no_reset {l : List BusAnswer} (h : (l.all (fun a => match a with
    | .ok => true
    | .error _ => true
    | .reset _ => false)) = true) : NoReset l := fun d hd => by
  have := List.all_eq_true.mp h _ hd
  cases this

theorem met_bus_errors :
    NoReset [] ∧ NoReset [.ok, .error 0] ∧
    let q (l : List BusAnswer) : Request := { ask 3 (le 7 serial) with hub := ⟨[], l⟩ }
    (∀ l ∈ [[.error 0], [.ok, .error 0], [.ok, .ok, .error 32]],
      granted (q l) (ready 3 known) = true ∧ owned (q l) = true) ∧
    requestOf (.cardQuery (q [])) = some (30#8, q []) ∧
    ∃ t, exec (.cardQuery (q [])) (ready 3 known) = .next t :=
  ⟨no_reset rfl, no_reset rfl, by decide, rfl, _, rfl⟩

theorem met_reset_in_work :
    let q (l : List BusAnswer) : Request := { ask 3 (le 7 serial) with hub := ⟨[], l⟩ }
    (∀ l ∈ [[.reset 0], [.ok, .reset 32], [.ok, .ok, .reset 0, .ok]],
      granted (q l) (ready 3 known) = true ∧ owned (q l) = true) ∧
    (∀ l, requestOf (.cardQuery (q l)) = some (30#8, q l)) ∧
    arbiterChoice (bulkAt 4 1 2) = some .bulk ∧
    { State.reset with engine.state := .initializing .keep }.engine.state = .initializing .keep ∧
    { ready 3 noStore with engine.stopPending := true }.engine.stopPending = true :=
  ⟨by decide, fun _ => rfl, by decide, rfl, rfl⟩

/-- R179: a reset at the response write of a CARD_QUERY: the own flag of its descriptor (at 4,576) is cleared, the
response slot (at 8,672) stays owned and unwritten, no event is set, the engine is STOPPED. -/
theorem test_reset_in_work :
    let q : Request := { ask 3 (le 7 serial) with hub := ⟨[(8672, 1#8)], [.ok, .ok, .reset 0]⟩ }
    (match exec (.cardQuery q) (ready 3 known) with
      | .next t => some (t.engine.state, t.port.events, [4576, 8672, 8674].map (memByte t.hub.mem))
      | _ => none) = some (.stopped, 0#10, [0#8, 1#8, 0#8]) := by decide +kernel

theorem met_ring_commands : CleanBus quiet ∧ (ready 3 noStore).engine.state = .running :=
  ⟨quiet_clean, rfl⟩

theorem met_events : (512#16).getLsbD 9 = true ∧ (ready 3 noStore).port.enables.getLsbD 9 = false := by decide

theorem met_port :
    NoReset [] ∧ HaltsAtOnce (ready 3 noStore) ∧ ¬ HaltsAtOnce State.reset ∧
      ¬ HaltsAtOnce { ready 3 noStore with bulk := some ⟨0, 9, 0, 0, 0, 0, 0⟩ } ∧
      State.reset.engine.resetAsserted = false ∧
      { State.reset with engine.resetAsserted := true }.engine.resetAsserted = true ∧
    (ready 3 noStore).port.index ≠ 3#4 ∧
      { ready 3 noStore with port.index := 3#4 }.port.index = 3#4 ∧ State.reset.rings.inHand = none ∧
      State.reset.hub.answers = [] :=
  ⟨no_reset rfl, by unfold HaltsAtOnce; decide, by unfold HaltsAtOnce; decide, by unfold HaltsAtOnce; decide,
    by decide⟩

theorem met_init :
    (∀ k ∈ [InitKind.format, .keep],
      { State.reset with engine.state := .initializing k }.engine.state = .initializing k) ∧ CleanBus quiet :=
  ⟨fun _ _ => rfl, quiet_clean⟩

theorem met_stop :
    let s (b : State) : State := { b with engine.stopPending := true }
    (s (ready 3 noStore)).engine.state = .running ∧ (s (ready 3 noStore)).engine.stopPending = true ∧
      (s (ready 3 noStore)).bulk = none ∧ (s (bulkAt 3 0 2)).bulk.isSome = true ∧
      (s (bulkAt 3 0 2)).rings.reserved = some ⟨14, 5#32⟩ := by decide

theorem met_arbiter : arbiterChoice (loaded 0 8 8 8) = some (.ring 1) ∧ arbiterChoice State.reset = none := by
  decide

theorem met_fixed_settings :
    flagBit (32 * 256 ^ 65) 65 5 = true ∧ flagBit 0 65 3 = false ∧
      field (8 * 256 ^ 65 + 200000 * 256 ^ 76) 76 4 = 200000 ∧ flagBit (8 * 256 ^ 65) 65 3 = true ∧
      (settingsOf (8 * 256 ^ 65 + 16 * 256 ^ 65 + 200000 * 256 ^ 76 + 100000 * 256 ^ 80)).overduePoint = 172800 ∧
      flagBit (8 * 256 ^ 65 + 16 * 256 ^ 65) 65 4 = true := by decide

end Sys2Proof.Tests
end

section
/-! PROOF. The credit of a member card (R41) and its block (R42): what each request's rule answers in each of
its cases, and from that the whole command. -/

namespace Sys2Proof.Proofs

open Sys2Proof Sys2Proof.Machine Sys2Proof.Laws

/-! ## Taken requests -/

/-- R161: a request that is taken has arrived on the ring of its code. -/
theorem ring_of_takes {code : Byte} {q : Request} {s : State} {ring size : Nat} (h : Takes code q s)
    (hc : codeEntry code = some (ring, size)) : q.ring.val = ring := by
  obtain ⟨-, -, -, hd⟩ := h
  by_cases hr : q.ring.val = ring
  · exact hr
  · have hwrong : ring ≠ q.ring.val := Ne.symm hr
    simp only [descriptorCheck, hc, if_pos hwrong] at hd
    split at hd <;> cases hd

/-- R162: a request whose rule refuses leaves every record as it was. -/
theorem completes_refuse {c : Instr} {code : Byte} {q : Request} {s : State}
    {rule : Work → Request → Reply × Work} {o : OutcomeCode} (h : Takes code q s)
    (he : exec c s = .next (grantRequest code (workRule rule) q s))
    (hr : rule (begun s) q = refuse (begun s) o) :
    Completes c code q s { outcome := o } [] (fun t => t = s.store) :=
  completes_of h he hr rfl rfl

/-- A request whose rule writes one card and nothing else. -/
theorem completes_setCard {c : Instr} {code : Byte} {q : Request} {s : State}
    {rule : Work → Request → Reply × Work} {r : Reply} {slot : Nat} {d : Card} (h : Takes code q s)
    (he : exec c s = .next (grantRequest code (workRule rule) q s))
    (hr : rule (begun s) q = (r, (begun s).setCard slot d)) :
    Completes c code q s r [] (fun t => t = putCard s.store slot (some d)) :=
  completes_of h he hr rfl rfl

/-! ## CARD_CREDIT (R41) -/

/-- CARD_CREDIT is the grant that carries out the rule of its code. -/
theorem exec_cardCredit (q : Request) (s : State) :
    exec (.cardCredit q) s = .next (grantRequest 27#8 (workRule cardCredit) q s) := rfl

/-- R41: the credited card has the sum for its balance, held at the bound, the write-off being what the bound
cuts off; a suspension ends when the sum is not below 0. -/
theorem creditedCard_eq (c : Card) (amount : Int) :
    creditedCard c amount =
      ({ c with
          balance := if c.balance + amount < -1000000 then -1000000 else c.balance + amount
          status := if c.status = .suspended ∧ 0 ≤ c.balance + amount then .active else c.status },
        if c.balance + amount < -1000000 then -1000000 - (c.balance + amount) else 0) := by
  unfold creditedCard charge
  rw [Int.sub_neg]
  by_cases hb : c.balance + amount < -1000000
  · have hneg : ¬ 0 ≤ c.balance + amount := by omega
    simp [Config.balanceMax, hb, hneg]
  · simp [Config.balanceMax, hb]

theorem cardCredit_amount_out_of_range {w : Work} {q : Request}
    (h : signedParam q 7 4 < -2000000 ∨ 2000000 < signedParam q 7 4) :
    cardCredit w q = refuse w .badRequest := if_pos (.inr h)

section
variable {w : Work} {q : Request} (hs : param q 0 7 ≠ Config.serialAbsent)
  (hlow : -2000000 ≤ signedParam q 7 4) (hhigh : signedParam q 7 4 ≤ 2000000)
include hs hlow hhigh

theorem cardCredit_absent (hn : namedCard w.store (param q 0 7) = none) :
    cardCredit w q = refuse w .notFound := by
  unfold cardCredit
  rw [if_neg (by omega), hn]

theorem cardCredit_over_limit {slot : Nat} {c : Card}
    (hn : namedCard w.store (param q 0 7) = some (slot, c)) (hb : 1000000 < c.balance + signedParam q 7 4) :
    cardCredit w q = refuse w .creditLimit := by
  unfold cardCredit
  rw [if_neg (by omega), hn]
  exact if_pos hb

theorem cardCredit_credits {slot : Nat} {c : Card}
    (hn : namedCard w.store (param q 0 7) = some (slot, c)) (hb : c.balance + signedParam q 7 4 ≤ 1000000) :
    cardCredit w q =
      let k := creditedCard c (signedParam q 7 4)
      ({ outcome := .ok
         result := encMoney k.1.balance ++ encMoney k.2 ++ le 1 k.1.status.toCode ++
           encMoney (availableFunds k.1) }, w.setCard slot k.1) := by
  unfold cardCredit
  rw [if_neg (by omega), hn]
  exact if_neg (Int.not_lt.mpr hb)

end

/-- Settles O17: each case of the rule of CARD_CREDIT, carried to the whole command. -/
theorem cardCreditMovesBalance : Obligations.CardCreditMovesBalance := by
  intro q s ht hs
  refine ⟨ring_of_takes ht rfl, fun ha => ?_, fun hlow hhigh => ⟨fun hn => ?_, fun slot c hn =>
    ⟨fun hb => ?_, fun hb => ?_⟩⟩⟩
  · exact completes_refuse ht (exec_cardCredit q s) (cardCredit_amount_out_of_range ha)
  · exact completes_refuse ht (exec_cardCredit q s) (cardCredit_absent hs hlow hhigh hn)
  · exact completes_refuse ht (exec_cardCredit q s) (cardCredit_over_limit hs hlow hhigh hn hb)
  · refine completes_setCard ht (exec_cardCredit q s) ?_
    rw [cardCredit_credits hs hlow hhigh hn hb, creditedCard_eq]
    rfl

/-! ## CARD_STATUS (R42) -/

/-- CARD_STATUS is the grant that carries out the rule of its code. -/
theorem exec_cardStatus (q : Request) (s : State) :
    exec (.cardStatus q) s = .next (grantRequest 28#8 (workRule cardStatus) q s) := rfl

theorem cardStatus_unknown_action {w : Work} {q : Request} (h : 1 < param q 7 1) :
    cardStatus w q = refuse w .badRequest := if_pos (.inr h)

section
variable {w : Work} {q : Request} (hs : param q 0 7 ≠ Config.serialAbsent)
include hs

theorem cardStatus_absent (ha : param q 7 1 ≤ 1) (hn : namedCard w.store (param q 0 7) = none) :
    cardStatus w q = refuse w .notFound := by
  unfold cardStatus
  rw [if_neg (by omega), hn]

theorem cardStatus_block_retiring {slot : Nat} {c : Card} (ha : param q 7 1 = 0)
    (hn : namedCard w.store (param q 0 7) = some (slot, c)) (hc : c.status = .retiring) :
    cardStatus w q = refuse w .wrongState := by
  unfold cardStatus
  rw [if_neg (by omega), hn]
  exact if_pos ⟨ha, hc⟩

theorem cardStatus_block {slot : Nat} {c : Card} (ha : param q 7 1 = 0)
    (hn : namedCard w.store (param q 0 7) = some (slot, c)) (hc : c.status ≠ .retiring) :
    cardStatus w q =
      ({ outcome := .ok, result := le 1 CardStatus.blocked.toCode },
        w.setCard slot { c with status := .blocked }) := by
  unfold cardStatus
  rw [if_neg (by omega), hn]
  simp [ha, hc]

theorem cardStatus_clear {slot : Nat} {c : Card} (ha : param q 7 1 = 1)
    (hn : namedCard w.store (param q 0 7) = some (slot, c)) :
    cardStatus w q =
      ({ outcome := .ok, result := le 1 (clearedStatus c).toCode },
        w.setCard slot { c with status := clearedStatus c }) := by
  unfold cardStatus
  rw [if_neg (by omega), hn]
  simp [ha]

end

/-- Settles O18: each case of the rule of CARD_STATUS, carried to the whole command. -/
theorem cardStatusBlocks : Obligations.CardStatusBlocks := by
  intro q s ht hs
  refine ⟨ring_of_takes ht rfl, fun ha => ?_, fun ha => ⟨fun hn => ?_, fun slot c hn =>
    ⟨fun ha hc => ?_, fun ha hc => ?_, fun ha => ?_⟩⟩⟩
  · exact completes_refuse ht (exec_cardStatus q s) (cardStatus_unknown_action ha)
  · exact completes_refuse ht (exec_cardStatus q s) (cardStatus_absent hs ha hn)
  · exact completes_refuse ht (exec_cardStatus q s) (cardStatus_block_retiring hs ha hn hc)
  · exact completes_setCard ht (exec_cardStatus q s) (cardStatus_block hs ha hn hc)
  · exact completes_setCard ht (exec_cardStatus q s) (cardStatus_clear hs ha hn)

end Sys2Proof.Proofs
end

section
/-! PROOF. The definition of a rebalancing van (R111): what the rule of VAN_DEFINE answers in each of its cases,
and from that the whole command. -/

namespace Sys2Proof.Proofs

open Sys2Proof Sys2Proof.Machine Sys2Proof.Laws

/-! ## VAN_DEFINE (R111) -/

/-- VAN_DEFINE is the grant that carries out the rule of its code. -/
theorem exec_vanDefine (q : Request) (s : State) :
    exec (.vanDefine q) s = .next (grantRequest 22#8 (workRule vanDefine) q s) := rfl

theorem vanDefine_out_of_range {w : Work} {q : Request}
    (h : 7 < param q 0 1 ∨ param q 1 1 = 0 ∨ 24 < param q 1 1) :
    vanDefine w q = refuse w .badRequest := if_pos h

section
variable {w : Work} {q : Request} (hv : param q 0 1 ≤ 7) (hlow : 1 ≤ param q 1 1) (hhigh : param q 1 1 ≤ 24)
include hv hlow hhigh

/-- With its operands in range, VAN_DEFINE goes by the bikes that the van holds: they bind the capacity of a
defined van only, and the response gives the places they leave free (R110). -/
theorem vanDefine_in_range :
    vanDefine w q =
      let r := vanAt w.store (param q 0 1)
      if r.isDefined = true ∧ param q 1 1 < bikesHeld r then refuse w .wrongState
      else
        ({ outcome := .ok
           result := le 1 (param q 1 1) ++
             le 1 (param q 1 1 - r.manifest.length - (if r.load.isSome then 1 else 0)) },
          w.setVan (param q 0 1) { r with isDefined := true, capacity := param q 1 1 }) := by
  have hrange : ¬ (Config.vans ≤ param q 0 1 ∨ param q 1 1 = 0 ∨ Config.vanCapacity < param q 1 1) := by
    simp only [Config.vans, Config.vanCapacity]
    omega
  exact if_neg hrange

theorem vanDefine_too_small (hd : (vanAt w.store (param q 0 1)).isDefined = true)
    (hc : param q 1 1 < bikesHeld (vanAt w.store (param q 0 1))) :
    vanDefine w q = refuse w .wrongState :=
  (vanDefine_in_range hv hlow hhigh).trans (if_pos ⟨hd, hc⟩)

theorem vanDefine_defines
    (h : (vanAt w.store (param q 0 1)).isDefined = false ∨
      bikesHeld (vanAt w.store (param q 0 1)) ≤ param q 1 1) :
    vanDefine w q =
      let r := vanAt w.store (param q 0 1)
      ({ outcome := .ok
         result := le 1 (param q 1 1) ++
           le 1 (param q 1 1 - r.manifest.length - (if r.load.isSome then 1 else 0)) },
        w.setVan (param q 0 1) { r with isDefined := true, capacity := param q 1 1 }) := by
  refine (vanDefine_in_range hv hlow hhigh).trans (if_neg ?_)
  rintro ⟨hd, hc⟩
  rcases h with hundefined | hfits
  · exact Bool.false_ne_true (hundefined.symm.trans hd)
  · exact Nat.not_lt.mpr hfits hc

end

/-- Settles O43: each case of the rule of VAN_DEFINE, carried to the whole command. -/
theorem vanDefineSetsCapacity : Obligations.VanDefineSetsCapacity := by
  rintro q s _ _ ht rfl rfl
  refine ⟨ring_of_takes ht rfl, fun hr => ?_, fun hv hlow hhigh => ⟨fun hd hc => ?_, fun h => ?_⟩⟩
  · exact completes_refuse ht (exec_vanDefine q s) (vanDefine_out_of_range hr)
  · exact completes_refuse ht (exec_vanDefine q s) (vanDefine_too_small hv hlow hhigh hd hc)
  · refine completes_of ht (exec_vanDefine q s) (vanDefine_defines hv hlow hhigh h) rfl ⟨rfl, fun hf => ?_⟩
    rw [setVan_store, vanAt_putVan_same]
    exact ⟨congrArg Van.crew hf, congrArg Van.manifest hf⟩

end Sys2Proof.Proofs
end

section
/-! PROOF. EVENT, EVENT_ENABLE and the interrupt line (R180, R181): each bit of the two registers after an event
and after a write, what an access does once the reset pin is released, and from that the whole statement. -/

namespace Sys2Proof.Proofs

open Sys2Proof Sys2Proof.Machine Sys2Proof.Laws

/-! ## The bits of EVENT and EVENT_ENABLE -/

theorem clearEvents_bit (s : State) (v : BitVec 16) {i : Nat} (hi : i < 10) :
    (clearEvents s v).port.events.getLsbD i = (s.port.events.getLsbD i && !v.getLsbD i) := by
  simp [clearEvents, hi]

theorem setEnables_bit (s : State) (v : BitVec 16) {i : Nat} (hi : i < 10) :
    (setEnables s v).port.enables.getLsbD i = v.getLsbD i := by
  simp [setEnables, hi]

@[simp] theorem clearEvents_enables (s : State) (v : BitVec 16) :
    (clearEvents s v).port.enables = s.port.enables := rfl

/-- Each of the ten flags stands in EVENT (R184). -/
theorem eventFlag_bit {i : Nat} (hi : i < 10) : (eventFlag i).getLsbD i = true := by
  rw [eventFlag, ← BitVec.twoPow_eq, BitVec.getLsbD_twoPow]
  simp [hi]

/-- R180: an event sets its flag, whatever stood in EVENT. -/
theorem raiseEvent_sets_flag (s : State) {i : Nat} (hi : i < 10) :
    (raiseEvent s (eventFlag i)).port.events.getLsbD i = true := by
  rw [raiseEvent_events, BitVec.getLsbD_or, eventFlag_bit hi, Bool.or_true]

/-- A word of 10 bits reads the same as a control word: its upper bits are 0. -/
theorem widened_bit (x : BitVec 10) (i : Nat) : (x.setWidth 16).getLsbD i = x.getLsbD i := by
  rw [BitVec.getLsbD_setWidth, Bool.and_eq_right_iff_imp, decide_eq_true_iff]
  intro hset
  have hlt : i < 10 := BitVec.lt_of_getLsbD hset
  omega

theorem controlWord_events (s : State) : controlWord s 5#4 = s.port.events.setWidth 16 := rfl

theorem controlWord_enables (s : State) : controlWord s 6#4 = s.port.enables.setWidth 16 := rfl

/-! ## The interrupt line -/

/-- R181: the line is active exactly when some flag is set with its enable set. -/
theorem interruptActive_iff (s : State) :
    interruptActive s = true ↔ ∃ i < 10, s.port.events.getLsbD i = true ∧ s.port.enables.getLsbD i = true := by
  rw [interruptActive, bne_iff_ne, ne_eq, BitVec.eq_of_getLsbD_eq_iff]
  simp only [BitVec.getLsbD_and, BitVec.getLsbD_zero, Classical.not_forall, exists_prop, Bool.not_eq_false,
    Bool.and_eq_true]

/-! ## The accesses with the reset pin released -/

theorem portAccess_released {s : State} (h : s.engine.resetAsserted = false) (f : State → State) :
    portAccess f s = f s := by
  rw [portAccess, h]
  rfl

theorem exec_eventClear {s : State} (h : s.engine.resetAsserted = false) (v : BitVec 16) :
    exec (.eventClear v) s = .next (clearEvents s v) :=
  congrArg Host.Outcome.next (portAccess_released h _)

theorem exec_eventEnableWrite {s : State} (h : s.engine.resetAsserted = false) (v : BitVec 16) :
    exec (.eventEnableWrite v) s = .next (setEnables s v) :=
  congrArg Host.Outcome.next (portAccess_released h _)

theorem eventClear_next {s t : State} (h : s.engine.resetAsserted = false) {v : BitVec 16}
    (ht : exec (.eventClear v) s = .next t) : t = clearEvents s v := by
  rw [exec_eventClear h] at ht
  exact (Host.Outcome.next.inj ht).symm

/-! ## R181 -/

/-- An event of an enabled flag makes the line active. -/
theorem interruptActive_raiseEvent {s : State} {i : Nat} (hi : i < 10) (he : s.port.enables.getLsbD i = true) :
    interruptActive (raiseEvent s (eventFlag i)) = true :=
  (interruptActive_iff _).mpr ⟨i, hi, raiseEvent_sets_flag s hi, he⟩

/-- A clear of a flag removes it. -/
theorem clearEvents_removes (s : State) {v : BitVec 16} {i : Nat} (hi : i < 10) (hv : v.getLsbD i = true) :
    (clearEvents s v).port.events.getLsbD i = false := by
  rw [clearEvents_bit s v hi, hv, Bool.not_true, Bool.and_false]

/-- Settles O55: the writes and the reads bit by bit, the line from the two registers, and a clear with an event in
either order. -/
theorem eventsAndInterrupt : Obligations.EventsAndInterrupt := by
  refine ⟨fun s v hpin => ?_, fun s v hpin => ?_, fun s => ⟨fun i => ?_, fun i => ?_⟩, interruptActive_iff,
    fun s v i hpin hi hv => ⟨raiseEvent_sets_flag s hi, raiseEvent_enables s _, fun t ht => ?_, fun t ht => ?_⟩⟩
  · exact ⟨clearEvents s v, exec_eventClear hpin v, fun i hi => clearEvents_bit s v hi, rfl⟩
  · exact ⟨setEnables s v, exec_eventEnableWrite hpin v, fun i hi => setEnables_bit s v hi, rfl⟩
  · rw [controlWord_events, widened_bit]
  · rw [controlWord_enables, widened_bit]
  · obtain rfl := eventClear_next hpin ht
    exact ⟨raiseEvent_sets_flag _ hi, fun he => interruptActive_raiseEvent hi (by rwa [clearEvents_enables])⟩
  · obtain rfl := eventClear_next (s := raiseEvent s (eventFlag i)) hpin ht
    exact clearEvents_removes _ hi hv

end Sys2Proof.Proofs
end

section
/-! PROOF. The edits of the records: every rule of a request and every expiry changes the records by a sequence of
a few kinds of edit, each within the ranges of the record it writes. An invariant of the records that each kind of
edit keeps is kept by every rule. -/

namespace Sys2Proof.Proofs

open Sys2Proof Sys2Proof.Machine Sys2Proof.Laws

-- One thread: the whole text is compiled in one process, whose threads the check limits.
set_option Elab.async false

/-! ## The kinds of edit -/

/-- R132, R133: the net flow of a station is in its range and its direction agrees with it. -/
def TrendOf (r : Station) : Prop :=
  -127 ≤ r.netFlow ∧ r.netFlow ≤ 127 ∧ r.direction = directionOf r.netFlow

/-- A field that is rewritten with a value in its range, or stands. -/
def Within (bound old new : Nat) : Prop := new ≤ bound ∨ new = old

theorem Within.same {bound old new : Nat} (h : new = old := by rfl) : Within bound old new := Or.inr h

theorem Within.of_le {bound old new : Nat} (h : new ≤ bound) : Within bound old new := Or.inl h

/-- A field that was in its range is in it still. -/
theorem Within.le {bound old new : Nat} (h : Within bound old new) (ho : old ≤ bound) : new ≤ bound :=
  h.elim id (fun he => he ▸ ho)

/-- A bike, a dock and a station rewritten within the ranges of their fields. -/
structure BikeEdit (r r' : Bike) : Prop where
  strikes : Within 15 r.fault.strikes r'.fault.strikes
  rides : Within 65535 r.rides r'.rides

def DockEdit (r r' : Dock) : Prop := Within 15 r.fault.strikes r'.fault.strikes

structure StationEdit (r r' : Station) : Prop where
  range : StationInRange r → StationInRange r'
  trend : TrendOf r → TrendOf r'

/-- One edit of the records. -/
inductive Edit : Store → Store → Prop
  | bike {st : Store} {b : Nat} {r : Bike} (h : BikeEdit (bikeAt st b) r) : Edit st (putBike st b r)
  | dock {st : Store} {d : Nat} {r : Dock} (h : DockEdit (dockAt st d) r) : Edit st (putDock st d r)
  | station {st : Store} {i : Nat} {r : Station} (h : StationEdit (stationAt st i) r) : Edit st (putStation st i r)
  | card {st : Store} {k : Nat} {c c' : Card} (hc : cardAt st k = some c) (hs : c'.serial = c.serial)
      (hr : 0 ≤ st.tariff.active.lostFee → CardInRange c → CardInRange c') : Edit st (putCard st k (some c'))
  | create {st st' : Store} {k : Nat} {c : Card} (hn : findCard st c.serial = none) (hr : CardInRange c)
      (hc : createCard st c = some (k, st')) : Edit st st'
  | remove {st : Store} {k : Nat} : Edit st (removeCard st k)
  | hire {st : Store} {k : Nat} {r : HireSlot} (h : Within 255 (hireSlotAt st k).gen r.gen) :
      Edit st (putHireSlot st k r)
  | ticket {st : Store} {k : Nat} {r : TicketSlot} (h : Within 255 (ticketSlotAt st k).gen r.gen) :
      Edit st (putTicketSlot st k r)
  | van {st : Store} {v : Nat} {r : Van} (h : Within 24 (vanAt st v).capacity r.capacity) : Edit st (putVan st v r)
  | waiting {st : Store} {l : List Subject} : Edit st { st with faults.waiting := l }
  | held {st : Store} {n : Nat} (h : st.fleet.reservationsHeld ≤ 512 → n ≤ 512) :
      Edit st { st with fleet.reservationsHeld := n }
  | entry {st : Store} {e : Entry} (h : e.due ≤ Config.clockMax) :
      Edit st { st with timer.deadlines := insertEntry e st.timer.deadlines }
  | drop {st : Store} {what : Deadline} :
      Edit st { st with timer.deadlines := dropEntry what st.timer.deadlines }
  | reown {st : Store} {old new : Nat} :
      Edit st { st with timer.deadlines := reownHold old new st.timer.deadlines }
  | tail {st : Store} : Edit st (headTaken st)
  | clock {st : Store} {c : Option Nat} {k : BitVec 16}
      (h : c = st.timer.clock ∨ ∀ t, c = some t → t ≤ Config.clockMax) :
      Edit st { st with timer := { st.timer with clock := c, captured := k } }
  | tariff {st : Store} {t : Tariff} (h : TariffSound t) : Edit st { st with tariff := ⟨true, t⟩ }

/-- A sequence of edits. -/
inductive Edits (a : Store) : Store → Prop
  | refl : Edits a a
  | andThen {b c : Store} (h : Edits a b) (k : Edit b c) : Edits a c

theorem Edits.trans {a b c : Store} (h : Edits a b) (k : Edits b c) : Edits a c := by
  induction k with
  | refl => exact h
  | andThen _ hs ih => exact ih.andThen hs

theorem Edit.edits {a b : Store} (h : Edit a b) : Edits a b := .andThen .refl h

/-- What each edit keeps, a sequence of edits keeps. -/
theorem Edits.keeps {P : Store → Prop} (hp : ∀ a b, Edit a b → P a → P b) {a b : Store} (h : Edits a b)
    (ha : P a) : P b := by
  induction h with
  | refl => exact ha
  | andThen _ hs ih => exact hp _ _ hs ih

theorem BikeEdit.same {r r' : Bike} (hf : r'.fault.strikes = r.fault.strikes := by rfl)
    (hr : r'.rides = r.rides := by rfl) : BikeEdit r r' :=
  ⟨.same hf, .same hr⟩

theorem DockEdit.same {r r' : Dock} (hf : r'.fault.strikes = r.fault.strikes := by rfl) : DockEdit r r' :=
  Within.same hf

/-- A station rewritten with the range, the settings and the trend that it has. -/
theorem StationEdit.same {r r' : Station} (h1 : r'.isDefined = r.isDefined := by rfl)
    (h2 : r'.firstDock = r.firstDock := by rfl) (h3 : r'.dockCount = r.dockCount := by rfl)
    (h4 : r'.settings = r.settings := by rfl) (h5 : r'.netFlow = r.netFlow := by rfl)
    (h6 : r'.direction = r.direction := by rfl) : StationEdit r r' := by
  refine ⟨fun h => ⟨?_, ?_, ?_, ?_, ?_, ?_⟩, fun h => ?_⟩
  · rw [h1, h2, h3]; exact h.range
  · rw [h4]; exact h.peak
  · rw [h4]; exact h.offPeak
  · rw [h4]; exact h.filling
  · rw [h4]; exact h.emptying
  · rw [h4]; exact h.alarm
  · unfold TrendOf; rw [h5, h6]; exact h

/-! ## The edits of the work in hand -/

section
variable {st : Store} {w : Work}

theorem Edits.setBike (h : Edits st w.store) {b : Nat} {r : Bike} (hr : BikeEdit (bikeAt w.store b) r) :
    Edits st (w.setBike b r).store := h.andThen (.bike hr)

theorem Edits.setDock (h : Edits st w.store) {d : Nat} {r : Dock} (hr : DockEdit (dockAt w.store d) r) :
    Edits st (w.setDock d r).store := h.andThen (.dock hr)

theorem Edits.setStation (h : Edits st w.store) {i : Nat} {r : Station} (hr : StationEdit (stationAt w.store i) r) :
    Edits st (w.setStation i r).store := h.andThen (.station hr)

theorem Edits.setClaimedBy (h : Edits st w.store) {i : Nat} {v : Option Nat} :
    Edits st (w.setClaimedBy i v).store := h.andThen (.station .same)

theorem Edits.setCard (h : Edits st w.store) {k : Nat} {c c' : Card} (hc : cardAt w.store k = some c)
    (hs : c'.serial = c.serial)
    (hr : 0 ≤ w.store.tariff.active.lostFee → CardInRange c → CardInRange c') :
    Edits st (w.setCard k c').store := h.andThen (.card hc hs hr)

theorem Edits.setVan (h : Edits st w.store) {v : Nat} {r : Van} (hr : Within 24 (vanAt w.store v).capacity r.capacity) :
    Edits st (w.setVan v r).store := h.andThen (.van hr)

theorem Edits.setHireSlot (h : Edits st w.store) {k : Nat} {r : HireSlot}
    (hr : Within 255 (hireSlotAt w.store k).gen r.gen) : Edits st (w.setHireSlot k r).store := h.andThen (.hire hr)

theorem Edits.setTicketSlot (h : Edits st w.store) {k : Nat} {r : TicketSlot}
    (hr : Within 255 (ticketSlotAt w.store k).gen r.gen) : Edits st (w.setTicketSlot k r).store := h.andThen (.ticket hr)

theorem Edits.setWaiting (h : Edits st w.store) {l : List Subject} : Edits st (w.setWaiting l).store :=
  h.andThen .waiting

theorem Edits.setHeldCount (h : Edits st w.store) {n : Nat} (hn : w.store.fleet.reservationsHeld ≤ 512 → n ≤ 512) :
    Edits st (w.setHeldCount n).store := h.andThen (.held hn)

theorem Edits.addEntry (h : Edits st w.store) {what : Deadline} {start span : Nat} :
    Edits st (w.addEntry what (dueAt start span)).store := h.andThen (.entry (Nat.min_le_right _ _))

theorem Edits.removeEntry (h : Edits st w.store) {what : Deadline} : Edits st (w.removeEntry what).store :=
  h.andThen .drop

theorem Edits.raiseNotice (h : Edits st w.store) {n : Notice} : Edits st (w.raiseNotice n).store := h

theorem Edits.removeCard (h : Edits st w.store) {k : Nat} : Edits st (Machine.removeCard w.store k) :=
  h.andThen .remove

end

/-- A fold of works that each edit the records. -/
theorem foldl_edits {α : Type} {f : Work → α → Work} (hf : ∀ w a, Edits w.store (f w a).store) (l : List α)
    (w : Work) : Edits w.store (l.foldl f w).store := by
  induction l generalizing w with
  | nil => exact .refl
  | cons a l ih => exact (hf w a).trans (ih _)

/-- A generation that rises by 1 from 255 to 0 stays in its range (R49, R92). -/
theorem nextGen_within (g n : Nat) : Within 255 n ((g + 1) % 256) :=
  .of_le (Nat.lt_succ_iff.mp (Nat.mod_lt _ (by decide)))

/-! ## The end of a work (R13, R138) -/

theorem compareIndicator_edits (w : Work) (i : Nat) : Edits w.store (w.compareIndicator i).store := by
  unfold Work.compareIndicator
  dsimp only
  split
  · exact .refl
  · exact Edits.andThen .refl (.station .same)

theorem settleStation_edits (w : Work) (i : Nat) : Edits w.store (w.settleStation i).store := by
  unfold Work.settleStation
  dsimp only
  split
  · refine Edits.trans ?_ (compareIndicator_edits _ i)
    exact Edits.andThen .refl (.station .same)
  · exact .refl

theorem settle_edits (w : Work) : Edits w.store w.settle.store := foldl_edits settleStation_edits _ w

/-! ## Net flow (R132, R133) -/

/-- A net flow in its range with the direction that it gives. -/
theorem StationEdit.flow {r : Station} {flow : Int} (h : TrendOf r → -127 ≤ flow ∧ flow ≤ 127) :
    StationEdit r { r with netFlow := flow, direction := directionOf flow } :=
  ⟨fun h => ⟨h.range, h.peak, h.offPeak, h.filling, h.emptying, h.alarm⟩, fun ht => ⟨(h ht).1, (h ht).2, rfl⟩⟩

theorem bumpDock_edits (w : Work) (d : Nat) (change : Int) : Edits w.store (w.bumpDock d change).store := by
  unfold Work.bumpDock
  split
  · exact Edits.setStation .refl (.flow fun _ => ⟨by omega, by omega⟩)
  · exact .refl

theorem decayStation_edits (w : Work) (i : Nat) : Edits w.store (w.decayStation i).store := by
  unfold Work.decayStation
  dsimp only
  split
  · refine Edits.trans ?_ (compareIndicator_edits _ i)
    refine Edits.andThen .refl (.station (.flow fun h => ?_))
    obtain ⟨hlow, hhigh, -⟩ := h
    have := Int.natAbs_tdiv_le_natAbs (stationAt w.store i).netFlow 2
    unfold halved
    omega
  · exact .refl

theorem decay_edits (w : Work) : Edits w.store w.decay.store :=
  Edits.addEntry (foldl_edits decayStation_edits _ w)

/-! ## Cards (R29, R31, R34, R38) -/

theorem closeCardAtLast_edits (w : Work) (k : Nat) : Edits w.store (w.closeCardAtLast k).1.store := by
  unfold Work.closeCardAtLast
  split
  · exact .refl
  · split
    · exact Edits.removeCard .refl
    · exact .refl

theorem modifyCard_edits (w : Work) (k : Nat) {f : Card → Card} (hs : ∀ c, (f c).serial = c.serial)
    (hr : ∀ c, cardAt w.store k = some c → CardInRange c → CardInRange (f c)) :
    Edits w.store (w.modifyCard k f).store := by
  unfold Work.modifyCard
  split
  · exact .refl
  · rename_i c hc
    exact Edits.setCard .refl hc (hs c) (fun _ => hr c hc)

theorem leaveCard_inRange (h : Handle) (hold : Int) {c : Card} (hc : CardInRange c) :
    CardInRange (leaveCard h hold c) :=
  ⟨hc.balance, hc.carry, Nat.le_trans (List.length_filter_le _ _) hc.openHires, hc.hireLimit, hc.daySpent, hc.reportsToday⟩

theorem freeHire_edits (w : Work) (h : Handle) : Edits w.store (w.freeHire h).store :=
  Edits.setHireSlot .refl (nextGen_within _ _)

theorem setHire_edits (w : Work) (h : Handle) (r : Hire) : Edits w.store (w.setHire h r).store :=
  Edits.setHireSlot .refl .same

/-! ## Holds (R65, R70) -/

theorem setHold_edits (w : Work) (k b i start span : Nat) (hn : w.store.fleet.reservationsHeld < 512) :
    Edits w.store (w.setHold k b i (dueAt start span)).store := by
  unfold Work.setHold
  dsimp only
  have hm := modifyCard_edits w k (f := fun c => { c with reservation := some ⟨b, i⟩ }) (fun _ => rfl)
    (fun _ _ hc => ⟨hc.balance, hc.carry, hc.openHires, hc.hireLimit, hc.daySpent, hc.reportsToday⟩)
  refine Edits.setHeldCount (Edits.addEntry (Edits.setBike hm .same)) (fun _ => ?_)
  have hheld : (w.modifyCard k fun c => { c with reservation := some ⟨b, i⟩ }).store.fleet.reservationsHeld =
      w.store.fleet.reservationsHeld := by
    unfold Work.modifyCard
    split <;> rfl
  change (w.modifyCard k fun c => { c with reservation := some ⟨b, i⟩ }).store.fleet.reservationsHeld + 1 ≤ 512
  omega

theorem endHold_edits (w : Work) (k b : Nat) : Edits w.store (w.endHold k b).store := by
  unfold Work.endHold
  dsimp only
  have hm := modifyCard_edits w k (f := fun c => { c with reservation := none }) (fun _ => rfl)
    (fun _ _ hc => ⟨hc.balance, hc.carry, hc.openHires, hc.hireLimit, hc.daySpent, hc.reportsToday⟩)
  exact Edits.setHeldCount (Edits.removeEntry (Edits.setBike hm .same))
    (fun h => Nat.le_trans (Nat.sub_le _ 1) h)

theorem moveHold_edits (w : Work) (k b : Nat) : Edits w.store (w.moveHold k b).store := by
  unfold Work.moveHold
  dsimp only
  split
  · exact .refl
  · rename_i c hc
    have hset : ∀ r, Edits w.store (w.setCard k { c with reservation := r }).store := fun r =>
      Edits.setCard .refl hc rfl
        (fun _ h => ⟨h.balance, h.carry, h.openHires, h.hireLimit, h.daySpent, h.reportsToday⟩)
    split
    · exact .refl
    · split
      · exact Edits.andThen (Edits.setBike (hset _) .same) .reown
      · exact Edits.raiseNotice (Edits.setHeldCount (Edits.removeEntry (hset _)) (fun h => Nat.le_trans (Nat.sub_le _ 1) h))

theorem unhold_edits (w : Work) (b : Nat) : Edits w.store (w.unhold b).store := by
  unfold Work.unhold
  dsimp only
  split
  · exact .refl
  · exact Edits.trans (Edits.setBike .refl .same) (moveHold_edits _ _ b)

/-! ## Faults and tickets (R94 to R100) -/

theorem setFault_edits (w : Work) (sub : Subject) {f : FaultState}
    (h : Within 15 (faultOf w.store sub).strikes f.strikes) : Edits w.store (w.setFault sub f).store := by
  cases sub with
  | bike b => exact Edits.setBike .refl ⟨h, .same⟩
  | dock d => exact Edits.setDock .refl h

theorem placeFault_edits (w : Work) (sub : Subject) (c : Cause) (rep : Option Nat) :
    Edits w.store (w.placeFault sub c rep).1.store ∧
      (w.placeFault sub c rep).2.1.strikes = (faultOf w.store sub).strikes := by
  unfold Work.placeFault
  dsimp only
  split
  · exact ⟨.refl, rfl⟩
  · exact ⟨.refl, rfl⟩
  · split
    · exact ⟨Edits.setTicketSlot .refl .same, rfl⟩
    · exact ⟨Edits.setWaiting .refl, rfl⟩

theorem countStrike_strikes (set : Settings) (sub : Subject) (c : Cause) (f : FaultState) :
    Within 15 f.strikes (countStrike set sub c f).strikes := by
  unfold countStrike
  split
  · exact .of_le (Nat.min_le_right _ _)
  · exact .same

theorem unholdSubject_edits (w : Work) (sub : Subject) : Edits w.store (w.unholdSubject sub).store := by
  cases sub with
  | bike b => exact unhold_edits w b
  | dock d =>
    unfold Work.unholdSubject
    dsimp only
    split
    · exact unhold_edits w _
    · exact .refl

theorem faultNotice_store (w : Work) (sub : Subject) (c : Cause) (rep : Option Nat) (f : FaultState)
    (r : FaultResult) : (w.faultNotice sub c rep f r).store = w.store := by
  cases r <;> rfl

/-- The fault state of a subject reads the bikes and docks alone. -/
theorem faultOf_fleet {a b : Store} (h : b.fleet = a.fleet) (sub : Subject) : faultOf b sub = faultOf a sub := by
  cases sub <;> simp only [faultOf, bikeAt, dockAt, h]

theorem raiseFault_edits (w : Work) (sub : Subject) (c : Cause) (rep : Option Nat) :
    Edits w.store (w.raiseFault sub c rep).1.store := by
  unfold Work.raiseFault
  split
  · exact .refl
  · obtain ⟨hp, hs⟩ := placeFault_edits w sub c rep
    obtain ⟨hfleet, -, -, -⟩ := placeFault_fleet w sub c rep
    generalize w.placeFault sub c rep = p at hp hs hfleet
    obtain ⟨u, f, r⟩ := p
    change Edits w.store (Work.faultNotice _ _ _ _ _ _).store
    rw [faultNotice_store]
    refine hp.trans ((setFault_edits u sub ?_).trans (unholdSubject_edits _ sub))
    rw [faultOf_fleet hfleet, ← hs]
    exact countStrike_strikes _ _ _ _

theorem moveTicket_edits (w : Work) (b : Nat) (x : TicketState) : Edits w.store (w.moveTicket b x).store := by
  unfold Work.moveTicket
  split
  · exact .refl
  · split
    · exact .refl
    · exact Edits.setTicketSlot .refl .same

theorem retire_edits (w : Work) (sub : Subject) : Edits w.store (w.retire sub).store := by
  unfold Work.retire
  split
  · dsimp only
    split
    · exact Edits.setDock (Edits.setBike .refl .same) .same
    · exact Edits.setBike .refl .same
  · exact Edits.setDock .refl .same

theorem serve_edits (w : Work) : Edits w.store w.serve.1.store := by
  unfold Work.serve
  split
  · exact .refl
  · rename_i sub rest hl
    dsimp only
    split
    · rename_i slot c hs hc
      refine Edits.raiseNotice (Edits.trans (Edits.setTicketSlot (Edits.setWaiting .refl) .same)
        (setFault_edits _ sub ?_))
      exact .same (congrArg FaultState.strikes (faultOf_fleet rfl sub)).symm
    · exact .refl

theorem overhaul_edits (w : Work) (sub : Subject) : Edits w.store (w.overhaul sub).store := by
  unfold Work.overhaul
  have hf : Edits w.store (w.setFault sub { faultOf w.store sub with strikes := 0 }).store :=
    setFault_edits w sub (.of_le (Nat.zero_le _))
  cases sub with
  | bike b => exact Edits.setBike hf ⟨.same, .of_le (Nat.zero_le _)⟩
  | dock d => exact hf

theorem closeTicket_edits (w : Work) (id : Handle) (t : Ticket) (overhaul : Bool) :
    Edits w.store (w.closeTicket id t overhaul).1.store := by
  unfold Work.closeTicket
  have hu : Edits w.store (if overhaul then w.overhaul t.subject else w).store := by
    split
    · exact overhaul_edits w t.subject
    · exact .refl
  generalize (if overhaul then w.overhaul t.subject else w) = u at hu
  refine hu.trans ?_
  have hc : Edits u.store ((u.setTicketSlot id.slot ⟨((ticketSlotAt u.store id.slot).gen + 1) % 256, none⟩).setFault
      t.subject { faultOf u.store t.subject with ticket := none }).store := by
    refine Edits.trans (Edits.setTicketSlot .refl (nextGen_within _ _)) (setFault_edits _ _ ?_)
    exact .same (congrArg FaultState.strikes (faultOf_fleet rfl t.subject)).symm
  refine hc.trans ?_
  dsimp only
  split
  · exact (retire_edits _ _).trans (serve_edits _)
  · exact serve_edits _

/-! ## Claims and loads (R110, R117, R126) -/

theorem setClaim_edits (w : Work) (v i : Nat) : Edits w.store (w.setClaim v i).store :=
  Edits.addEntry (Edits.setClaimedBy (Edits.setVan .refl .same))

theorem clearClaim_edits (w : Work) (v : Nat) : Edits w.store (w.clearClaim v).1.store := by
  unfold Work.clearClaim
  split
  · exact .refl
  · exact Edits.removeEntry (Edits.setClaimedBy (Edits.setVan .refl .same))

theorem endLoad_edits (w : Work) (v d b : Nat) : Edits w.store (w.endLoad v d b).store := by
  unfold Work.endLoad
  dsimp only
  exact Edits.setVan (Edits.setDock (Edits.setBike .refl .same) .same) .same

theorem leaveManifest_edits (w : Work) (v b : Nat) : Edits w.store (w.leaveManifest v b).store :=
  Edits.setVan .refl .same

theorem closeRelease_edits (w : Work) (h : Handle) (r : Hire) : Edits w.store (w.closeRelease h r).store := by
  unfold Work.closeRelease
  dsimp only
  have hm := modifyCard_edits w r.card (f := leaveCard h r.hold) (fun _ => rfl)
    (fun _ _ hc => leaveCard_inRange h r.hold hc)
  exact Edits.trans (Edits.setDock (Edits.setBike hm .same) .same) (freeHire_edits _ h)

end Sys2Proof.Proofs
end

section
/-! PROOF. Every rule of a request and every expiry changes the records by edits (`Edits`). -/

namespace Sys2Proof.Proofs

open Sys2Proof Sys2Proof.Machine Sys2Proof.Laws

-- One thread: the whole text is compiled in one process, whose threads the check limits.
set_option Elab.async false

/-! ## Fields of operands -/

theorem field_lt (block off width : Nat) : field block off width < 256 ^ width :=
  Nat.mod_lt _ (Nat.pow_pos (by decide))

theorem param_le {q : Request} {off width : Nat} : param q off width ≤ 256 ^ width - 1 :=
  Nat.le_sub_one_of_lt (field_lt _ _ _)

/-! ## Arrivals and removals (R21 to R27) -/

theorem cancelRelease_edits (w : Work) (b d : Nat) : Edits w.store (w.cancelRelease b d).store := by
  unfold Work.cancelRelease
  dsimp only
  split
  · exact .refl
  · split
    · exact .refl
    · exact Edits.trans (Edits.raiseNotice (Edits.removeEntry (closeRelease_edits w _ _)))
        (closeCardAtLast_edits _ _)

theorem cancelLoad_edits (w : Work) (b d : Nat) : Edits w.store (w.cancelLoad b d).store := by
  unfold Work.cancelLoad
  split
  · split
    · exact .refl
    · exact Edits.raiseNotice (Edits.removeEntry (endLoad_edits w _ _ _))
  · exact .refl

/-- R22: what a displacement does once the release or the load of the bike has ended. -/
def lostFrom (w : Work) (x d : Nat) : Work :=
  let w := w.setBike x { bikeAt w.store x with state := .missing, place := none }
  let w := w.setDock d { dockAt w.store d with content := .empty, latch := .latched, lastLapse := none }
  (((w.unhold x).raiseNotice (.bikeMissing x d none)).raiseFault (.dock d) .dConflict none).1

theorem lostFrom_edits (w : Work) (x d : Nat) : Edits w.store (lostFrom w x d).store := by
  unfold lostFrom
  dsimp only
  refine Edits.trans (Edits.raiseNotice (Edits.trans ?_ (unhold_edits _ _))) (raiseFault_edits _ _ _ _)
  exact Edits.setDock (Edits.setBike .refl .same) .same

theorem displace_edits (w : Work) (x d : Nat) : Edits w.store (w.displace x d).store := by
  unfold Work.displace
  split
  · exact (cancelRelease_edits w x d).trans (lostFrom_edits _ x d)
  · exact (cancelLoad_edits w x d).trans (lostFrom_edits _ x d)
  · exact lostFrom_edits w x d

theorem clearContent_edits (w : Work) (d : Nat) (report : Option Nat) :
    Edits w.store (w.clearContent d report).store := by
  unfold Work.clearContent
  split
  · exact .refl
  · exact Edits.trans (Edits.setDock .refl .same) (raiseFault_edits _ _ _ _)
  · split
    · exact .refl
    · exact displace_edits w _ d

theorem putContent_edits (w : Work) (d : Nat) (c : Content) : Edits w.store (w.putContent d c).store :=
  Edits.setDock .refl .same

theorem charge_inRange {balance amount : Int} (ha : balance - amount ≤ 1000000) :
    -1000000 ≤ (charge balance amount).1 ∧ (charge balance amount).1 ≤ 1000000 := by
  unfold charge Config.balanceMax
  by_cases h : balance - amount < -1000000
  · simp only [if_pos h]
    omega
  · simp only [if_neg h]
    omega

theorem suspensionTest_inRange (t : Tariff) {c : Card} (h : CardInRange c) : CardInRange (suspensionTest t c) := by
  unfold suspensionTest
  split
  · exact ⟨h.balance, h.carry, h.openHires, h.hireLimit, h.daySpent, h.reportsToday⟩
  · exact h

theorem suspensionTest_serial (t : Tariff) (c : Card) : (suspensionTest t c).serial = c.serial := by
  unfold suspensionTest
  split <;> rfl

/-- R80 to R87: the card fields that a fare gives are in their ranges. -/
theorem computeFare_inRange (set : Settings) (t : Tariff) {c : Card} (i : FareInput) (h : CardInRange c) :
    let f := computeFare set t c i
    (-1000000 ≤ f.balance ∧ f.balance ≤ 1000000) ∧ f.carry ≤ 255 ∧ f.daySpent ≤ Config.fareMax := by
  unfold computeFare
  dsimp only
  split
  · exact ⟨h.balance, h.carry, h.daySpent⟩
  · refine ⟨charge_inRange ?_, Nat.lt_succ_iff.mp (Nat.mod_lt _ (by decide)), Nat.min_le_right _ _⟩
    have := h.balance
    omega

theorem settledCard_inRange (set : Settings) (t : Tariff) (h : Handle) (r : Hire) {c : Card} (i : FareInput)
    (hc : CardInRange c) : CardInRange (settledCard set t h r c i) := by
  obtain ⟨hbal, hcarry, hday⟩ := computeFare_inRange set t i hc
  exact suspensionTest_inRange t
    (leaveCard_inRange h r.hold ⟨hbal, hcarry, hc.openHires, hc.hireLimit, hday, hc.reportsToday⟩)

theorem settledCard_serial (set : Settings) (t : Tariff) (h : Handle) (r : Hire) (c : Card) (i : FareInput) :
    (settledCard set t h r c i).serial = c.serial := suspensionTest_serial _ _

theorem rollReports_inRange (day : Nat) {c : Card} (h : CardInRange c) : CardInRange (rollReports day c) := by
  unfold rollReports
  split
  · exact h
  · exact ⟨h.balance, h.carry, h.openHires, h.hireLimit, h.daySpent, Nat.zero_le _⟩

theorem rollReports_serial (day : Nat) (c : Card) : (rollReports day c).serial = c.serial := by
  unfold rollReports
  split <;> rfl

theorem reportTest_inRange (set : Settings) (now : Nat) {c : Card} (button : Bool) (h : CardInRange c) :
    CardInRange (reportTest set now c button).1 := by
  have hr := rollReports_inRange (dayNumber set now) h
  unfold reportTest
  split
  · dsimp only
    split
    · exact ⟨hr.balance, hr.carry, hr.openHires, hr.hireLimit, hr.daySpent, Nat.min_le_right _ _⟩
    · exact hr
  · exact h

theorem reportTest_serial (set : Settings) (now : Nat) (c : Card) (button : Bool) :
    (reportTest set now c button).1.serial = c.serial := by
  unfold reportTest
  split
  · dsimp only
    split <;> exact rollReports_serial _ _
  · rfl

theorem settleHire_edits (w : Work) (b d : Nat) (h : Handle) (r : Hire) {c : Card} (button : Bool)
    (hc : cardAt w.store r.card = some c) : Edits w.store (w.settleHire b d h r c button).1.store := by
  have hs := reportTest_serial w.set w.now c button
  have hr := reportTest_inRange w.set w.now (c := c) button
  unfold Work.settleHire
  dsimp only
  generalize reportTest w.set w.now c button = p at hs hr
  refine Edits.trans ?_ (closeCardAtLast_edits _ _)
  refine Edits.setBike (Edits.trans (Edits.removeEntry (Edits.removeEntry
    (Edits.setCard .refl hc ((settledCard_serial _ _ _ _ _ _).trans hs)
      (fun _ hcr => settledCard_inRange _ _ _ _ _ (hr hcr))))) (freeHire_edits _ h)) ⟨.same, ?_⟩
  exact .of_le (Nat.min_le_right _ _)

theorem dockBike_edits (w : Work) (b d : Nat) : Edits w.store (w.dockBike b d).store := Edits.setBike .refl .same

theorem fromOtherDock_edits (w : Work) (b d : Nat) : Edits w.store (w.fromOtherDock b d).store := by
  unfold Work.fromOtherDock
  split
  · split
    · exact .refl
    · refine Edits.trans ?_ (unhold_edits _ b)
      refine Edits.trans ?_ (dockBike_edits _ b d)
      exact Edits.trans (Edits.setDock .refl .same) (raiseFault_edits _ _ _ _)
  · exact dockBike_edits w b d

theorem bikeSide_edits (w : Work) (b d : Nat) (button : Bool) : Edits w.store (w.bikeSide b d button).1.store := by
  unfold Work.bikeSide
  dsimp only
  cases (bikeAt w.store b).state with
  | docked => exact fromOtherDock_edits w b d
  | releasing => exact (cancelRelease_edits w b d).trans (fromOtherDock_edits _ b d)
  | loading => exact (cancelLoad_edits w b d).trans (fromOtherDock_edits _ b d)
  | onHire =>
    cases (bikeAt w.store b).hire with
    | none => exact dockBike_edits w b d
    | some h =>
      dsimp only
      cases hireAt w.store h with
      | none => exact dockBike_edits w b d
      | some r =>
        dsimp only
        cases hc : cardAt w.store r.card with
        | none => exact dockBike_edits w b d
        | some c => exact settleHire_edits w b d h r button hc
  | inVan =>
    dsimp only
    split
    · exact (leaveManifest_edits w _ b).trans (dockBike_edits _ b d)
    · exact dockBike_edits w b d
  | workshop => exact Edits.raiseNotice (dockBike_edits w b d)
  | missing => exact Edits.raiseNotice (dockBike_edits w b d)
  | uncommissioned => exact .refl
  | retired => exact .refl

theorem raiseIf_edits {st : Store} {p : Work × FaultResult} (h : Edits st p.1.store) (cond : Bool) (sub : Subject)
    (c : Cause) (rep : Option Nat) : Edits st (raiseIf p cond sub c rep).1.store := by
  unfold raiseIf
  split
  · exact h.trans (raiseFault_edits _ _ _ _)
  · exact h

theorem bikeFaults_edits (w : Work) (b n : Nat) (rep : Report) (damage : Bool) :
    Edits w.store (w.bikeFaults b n rep damage).1.store := by
  unfold Work.bikeFaults
  dsimp only
  exact raiseIf_edits (raiseIf_edits (raiseIf_edits (p := (w, .none)) .refl _ _ _ _) _ _ _ _) _ _ _ _

theorem arrive_edits (w : Work) (d : Nat) (report : Option Nat) (button damage : Bool) :
    Edits w.store (w.arrive d report button damage).2.store := by
  unfold Work.arrive
  dsimp only
  have h0 : Edits w.store ((w.bumpDock d 1).clearContent d report).store :=
    (bumpDock_edits w d 1).trans (clearContent_edits _ d report)
  generalize (w.bumpDock d 1).clearContent d report = u at h0
  split
  · refine h0.trans ((putContent_edits u d .unidentified).trans ?_)
    dsimp only
    split
    · exact raiseFault_edits _ _ _ _
    · exact .refl
  · rename_i b hb
    refine h0.trans ((putContent_edits u d (.bike b)).trans ?_)
    generalize (bikeAt (u.putContent d (.bike b)).store b).rides = n
    generalize u.putContent d (.bike b) = v
    refine (bikeSide_edits v b d button).trans ?_
    generalize v.bikeSide b d button = p
    obtain ⟨x, y, rep⟩ := p
    exact (moveTicket_edits x b .opened).trans (bikeFaults_edits _ b n rep damage)

theorem bikeArrived_edits (w : Work) (q : Request) : Edits w.store (bikeArrived w q).2.store := by
  unfold bikeArrived
  dsimp only
  split
  · exact .refl
  · split
    · exact .refl
    · exact arrive_edits _ _ _ _ _

theorem emptyDock_edits (w : Work) (d : Nat) : Edits w.store (w.emptyDock d).store := Edits.setDock .refl .same

theorem beginRide_edits (w : Work) (d : Nat) (h : Handle) : Edits w.store (w.beginRide d h).store := by
  unfold Work.beginRide
  split
  · exact emptyDock_edits w d
  · refine Edits.addEntry (Edits.removeEntry (Edits.trans ?_ (emptyDock_edits _ d)))
    exact Edits.setBike (setHire_edits w h _) .same

theorem completeLoad_edits (w : Work) (d v b : Nat) : Edits w.store (w.completeLoad d v b).store := by
  unfold Work.completeLoad
  refine Edits.trans (Edits.removeEntry (Edits.trans ?_ (emptyDock_edits _ d))) (moveTicket_edits _ _ _)
  exact Edits.setBike (Edits.setVan .refl .same) .same

theorem pullBike_edits (w : Work) (d b : Nat) : Edits w.store (w.pullBike d b).1.store := by
  unfold Work.pullBike
  refine Edits.raiseNotice (Edits.trans (Edits.trans (Edits.trans ?_ (emptyDock_edits _ d)) (unhold_edits _ b))
    (raiseFault_edits _ _ _ _))
  exact Edits.setBike .refl .same

theorem takeOut_edits (w : Work) (d : Nat) : Edits w.store (w.takeOut d).1.store := by
  unfold Work.takeOut
  split
  · exact (beginRide_edits w d _).trans (bumpDock_edits _ d _)
  · exact (completeLoad_edits w d _ _).trans (bumpDock_edits _ d _)
  · exact (pullBike_edits w d _).trans (bumpDock_edits _ d _)
  · exact (emptyDock_edits w d).trans (bumpDock_edits _ d _)
  · exact raiseFault_edits _ _ _ _

theorem bikeRemoved_edits (w : Work) (q : Request) : Edits w.store (bikeRemoved w q).2.store := by
  unfold bikeRemoved
  dsimp only
  split
  · exact .refl
  · split
    · exact .refl
    · refine (takeOut_edits w (param q 0 2)).trans ?_
      dsimp only
      split
      · exact raiseFault_edits _ _ _ _
      · exact .refl

/-! ## Cards (R39 to R48) -/

theorem findCard_some {st : Store} {serial k : Nat} (h : findCard st serial = some k) :
    ∃ c, cardAt st k = some c ∧ c.serial = serial := by
  have := List.find?_some h
  simpa using this

theorem namedCard_some {st : Store} {serial k : Nat} {c : Card} (h : namedCard st serial = some (k, c)) :
    findCard st serial = some k ∧ cardAt st k = some c := by
  unfold namedCard at h
  split at h
  · cases h
  · rename_i slot hs
    obtain ⟨d, hd, -⟩ := findCard_some hs
    rw [hd] at h
    cases h
    exact ⟨hs, hd⟩

theorem namedCard_none {st : Store} {serial : Nat} (h : namedCard st serial = none) : findCard st serial = none := by
  unfold namedCard at h
  split at h
  · assumption
  · rename_i k hk
    obtain ⟨c, hc, -⟩ := findCard_some hk
    rw [hc] at h
    cases h

theorem cardCheck_store (w : Work) (q : Request) : (cardCheck w q).2 = w := by
  unfold cardCheck
  dsimp only
  split
  · rfl
  · split
    · rfl
    · split <;> rfl

theorem createdCard_inRange {i : CardImage} (hi : goodImage i = true) (ho : goodOpening i.opening = true) :
    CardInRange (createdCard i) := by
  simp only [goodImage, Bool.and_eq_true, decide_eq_true_eq] at hi
  unfold goodOpening Config.balanceMax at ho
  rw [Bool.and_eq_true, decide_eq_true_eq, decide_eq_true_eq] at ho
  exact ⟨ho, Nat.zero_le _, Nat.zero_le _, ⟨hi.1.2, hi.2⟩, Nat.zero_le _, Nat.zero_le _⟩

theorem updatedCard_inRange {i : CardImage} (hi : goodImage i = true) {c : Card} (hc : CardInRange c) :
    CardInRange (updatedCard i c) := by
  simp only [goodImage, Bool.and_eq_true, decide_eq_true_eq] at hi
  exact ⟨hc.balance, hc.carry, hc.openHires, ⟨hi.1.2, hi.2⟩, hc.daySpent, hc.reportsToday⟩

/-- R40: the update of a present card. -/
theorem putImage_present {st : Store} {i : CardImage} {k : Nat} (h : findCard st i.serial = some k) :
    putImage st i = .updated k (putCard st k ((cardAt st k).map (updatedCard i))) := by
  unfold putImage
  rw [h]

/-- R39: the creation of an absent card, where it is not refused. -/
theorem putImage_absent {st : Store} {i : CardImage} (h : findCard st i.serial = none) :
    putImage st i =
      if goodOpening i.opening then
        match createCard st (createdCard i) with
        | none => .full
        | some (k, st') => .created k st'
      else .badOpening := by
  unfold putImage
  rw [h] <;> rfl

/-- What putting a card image leaves of the records. -/
def storeOf (st : Store) : PutResult → Store
  | .badOpening => st
  | .full => st
  | .created _ st' => st'
  | .updated _ st' => st'

theorem putImage_edits {st : Store} {i : CardImage} (hi : goodImage i = true) :
    Edits st (storeOf st (putImage st i)) := by
  cases hf : findCard st i.serial with
  | some k =>
    obtain ⟨c, hc, -⟩ := findCard_some hf
    rw [putImage_present hf, hc]
    exact (Edit.card (c' := updatedCard i c) hc rfl fun _ h => updatedCard_inRange hi h).edits
  | none =>
    rw [putImage_absent hf]
    split
    · rename_i ho
      cases hcr : createCard st (createdCard i) with
      | none => exact .refl
      | some p => exact (Edit.create hf (createdCard_inRange hi ho) hcr).edits
    · exact .refl

end Sys2Proof.Proofs
end

section
/-! PROOF. Every rule of a request and every expiry changes the records by edits: cards, hires, the clock, the
fleet tables, the tariff, tickets and vans. -/

namespace Sys2Proof.Proofs

open Sys2Proof Sys2Proof.Machine Sys2Proof.Laws

-- One thread: the whole text is compiled in one process, whose threads the check limits.
set_option Elab.async false

/-! ## Card requests (R39 to R48) -/

theorem cardPut_edits (w : Work) (q : Request) : Edits w.store (cardPut w q).2.store := by
  unfold cardPut
  dsimp only
  split
  · rename_i hi
    have he := putImage_edits (st := w.store) hi
    generalize putImage w.store (putParams q) = p at he
    cases p with
    | badOpening => exact .refl
    | full => exact .refl
    | created _ _ => exact he
    | updated _ _ => exact he
  · exact .refl

theorem creditedCard_inRange {c : Card} {amount : Int} (h : CardInRange c) (ha : c.balance + amount ≤ 1000000) :
    CardInRange (creditedCard c amount).1 :=
  ⟨charge_inRange (by omega), h.carry, h.openHires, h.hireLimit, h.daySpent, h.reportsToday⟩

theorem cardCredit_edits (w : Work) (q : Request) : Edits w.store (cardCredit w q).2.store := by
  unfold cardCredit
  dsimp only
  split
  · exact .refl
  · cases hn : namedCard w.store (param q 0 7) with
    | none => exact .refl
    | some p =>
      obtain ⟨k, c⟩ := p
      obtain ⟨-, hc⟩ := namedCard_some hn
      dsimp only
      split
      · exact .refl
      · rename_i hlimit
        exact Edits.setCard .refl hc rfl fun _ h => creditedCard_inRange h (Int.not_lt.mp hlimit)

theorem cardStatus_edits (w : Work) (q : Request) : Edits w.store (cardStatus w q).2.store := by
  unfold cardStatus
  dsimp only
  split
  · exact .refl
  · cases hn : namedCard w.store (param q 0 7) with
    | none => exact .refl
    | some p =>
      obtain ⟨k, c⟩ := p
      obtain ⟨-, hc⟩ := namedCard_some hn
      dsimp only
      split
      · exact .refl
      · exact Edits.setCard .refl hc rfl
          fun _ h => ⟨h.balance, h.carry, h.openHires, h.hireLimit, h.daySpent, h.reportsToday⟩

theorem endReservation_edits (w : Work) (k : Nat) (r : Option Reservation) :
    Edits w.store (w.endReservation k r).store := by
  cases r with
  | none => exact .refl
  | some r => exact endHold_edits w k r.bike

theorem cardRetire_edits (w : Work) (q : Request) : Edits w.store (cardRetire w q).2.store := by
  unfold cardRetire
  dsimp only
  split
  · exact .refl
  · cases hn : namedCard w.store (param q 0 7) with
    | none => exact .refl
    | some p =>
      obtain ⟨k, c⟩ := p
      have he := endReservation_edits w k c.reservation
      dsimp only
      split
      · exact he.removeCard
      · exact he.trans (modifyCard_edits _ k (fun _ => rfl)
          (fun _ _ h => ⟨h.balance, h.carry, h.openHires, h.hireLimit, h.daySpent, h.reportsToday⟩))

theorem cardQuery_store (w : Work) (q : Request) : (cardQuery w q).2 = w := by
  unfold cardQuery
  dsimp only
  split
  · rfl
  · split <;> rfl

theorem applyImage_edits (set : Settings) (st : Store) (b : BulkLoad) (block : Nat) :
    Edits st (applyImage set st b block).1 := by
  unfold applyImage
  dsimp only
  split
  · exact .refl
  · rename_i hbad
    have hi : goodImage (imageOf block) = true := by
      rw [not_or, Bool.not_eq_false] at hbad
      exact hbad.2
    have he := putImage_edits (st := st) hi
    generalize putImage st (imageOf block) = p at he
    cases p with
    | badOpening => exact .refl
    | full => exact .refl
    | created _ _ => exact he
    | updated _ _ => exact he

/-! ## Hires and reservations (R51 to R70) -/

theorem guestCard_inRange (serial : Nat) : CardInRange (guestCard serial) :=
  ⟨by simp [guestCard], by simp [guestCard], by simp [guestCard], by simp [guestCard], by simp [guestCard],
    by simp [guestCard]⟩

theorem createCard_cardAt {st st' : Store} {c : Card} {k : Nat} (h : createCard st c = some (k, st')) :
    cardAt st' k = some c := by
  unfold createCard at h
  split at h
  · cases h
  · cases h
    simp

theorem cardForRelease_edits {set : Settings} {st st' : Store} {serial k : Nat} {c : Card}
    (h : cardForRelease set st serial = .ok (k, c, st')) : Edits st st' ∧ cardAt st' k = some c := by
  unfold cardForRelease at h
  cases hn : namedCard st serial with
  | some p =>
    rw [hn] at h
    cases h
    exact ⟨.refl, (namedCard_some hn).2⟩
  | none =>
    rw [hn] at h
    dsimp only at h
    cases ha : absentCard set serial with
    | home => rw [ha] at h; cases h
    | notAccepted => rw [ha] at h; cases h
    | accepted =>
      rw [ha] at h
      dsimp only at h
      cases hcr : createCard st (guestCard serial) with
      | none => rw [hcr] at h; cases h
      | some p =>
        rw [hcr] at h
        cases h
        exact ⟨(Edit.create (namedCard_none hn) (guestCard_inRange serial) hcr).edits, createCard_cardAt hcr⟩

/-- The end of a hold leaves the open hires and the hire limit of its card. -/
theorem endHold_card (w : Work) (k b : Nat) {d : Card} (h : cardAt (w.endHold k b).store k = some d) :
    ∃ c, cardAt w.store k = some c ∧ d.openHires = c.openHires ∧ d.hireLimit = c.hireLimit := by
  cases hc : cardAt w.store k with
  | none =>
    have : (w.endHold k b).store.cards = w.store.cards := by
      unfold Work.endHold Work.modifyCard
      rw [hc]
      rfl
    rw [cardAt, this] at h
    exact absurd (h.symm.trans hc) (by simp)
  | some c =>
    rw [(endHold_eq hc).1] at h
    simp only [cardAt_mk, cardAt_putBike, cardAt_putCard_same, Option.some.injEq] at h
    exact ⟨c, rfl, by rw [← h], by rw [← h]⟩

theorem openHire_edits (w : Work) (n k : Nat) {c : Card} (b d : Nat) (hc : cardAt w.store k = some c)
    (hlimit : c.openHires.length < c.hireLimit) : Edits w.store (w.openHire n k c b d).1.store := by
  unfold Work.openHire
  dsimp only
  generalize hw1 : w.setHire ⟨n, (hireSlotAt w.store n).gen⟩ _ = w1
  have h1 : Edits w.store w1.store := by rw [← hw1]; exact setHire_edits w _ _
  have hc1 : cardAt w1.store k = some c := by rw [← hw1]; exact hc
  clear hw1
  generalize hw2 : (if (bikeAt w1.store b).heldFor = some k then w1.endHold k b else w1) = w2
  have h2 : Edits w1.store w2.store ∧ ∀ d, cardAt w2.store k = some d →
      d.openHires = c.openHires ∧ d.hireLimit = c.hireLimit := by
    rw [← hw2]
    split
    · refine ⟨endHold_edits w1 k b, fun d hd => ?_⟩
      obtain ⟨c', hc', ho⟩ := endHold_card w1 k b hd
      rw [hc1] at hc'
      cases hc'
      exact ho
    · refine ⟨.refl, fun d hd => ?_⟩
      rw [hc1] at hd
      cases hd
      exact ⟨rfl, rfl⟩
  clear hw2
  refine h1.trans (h2.1.trans ?_)
  refine Edits.addEntry (Edits.setDock (Edits.setBike (modifyCard_edits w2 k (by intro; rfl) fun e he h => ?_)
    .same) .same)
  refine ⟨h.balance, h.carry, ?_, h.hireLimit, h.daySpent, h.reportsToday⟩
  obtain ⟨ho, hl⟩ := h2.2 e he
  have hmax := h.hireLimit.2
  rw [List.length_append, List.length_singleton, ho]
  omega

/-- R51 step 7: a card in standing has fewer open hires than its hire limit. -/
theorem standingRefusal_none {w : Work} {c : Card} (h : standingRefusal w c = none) :
    c.openHires.length < c.hireLimit := by
  unfold standingRefusal at h
  refine Nat.lt_of_not_le fun hlimit => ?_
  simp only [if_pos hlimit] at h
  repeat' split at h
  all_goals cases h

theorem hireRelease_edits (w : Work) (q : Request) : Edits w.store (hireRelease w q).2.store := by
  unfold hireRelease
  dsimp only
  split
  · exact .refl
  · split
    · exact .refl
    · split
      · exact .refl
      · rename_i k c st hcard
        obtain ⟨he, hc⟩ := cardForRelease_edits hcard
        split
        · exact .refl
        · rename_i hstanding
          split
          · exact he.trans (openHire_edits { w with store := st } _ k _ _ hc (standingRefusal_none hstanding))
          · exact .refl
          · exact .refl

theorem hireQuery_store (w : Work) (q : Request) : (hireQuery w q).2 = w := by
  unfold hireQuery
  dsimp only
  split
  · split
    · rfl
    · split <;> rfl
  · split
    · split
      · rfl
      · split <;> rfl
    · rfl

theorem reserve_edits (w : Work) (q : Request) : Edits w.store (reserve w q).2.store := by
  unfold reserve
  dsimp only
  split
  · exact .refl
  · split
    · exact .refl
    · split
      · exact .refl
      · split
        · exact .refl
        · split
          · exact .refl
          · split
            · exact .refl
            · rename_i hheld
              split
              · exact .refl
              · exact setHold_edits w _ _ _ _ _ (Nat.lt_of_not_le hheld)

theorem cancelReservation_edits (w : Work) (q : Request) : Edits w.store (cancelReservation w q).2.store := by
  unfold cancelReservation
  dsimp only
  split
  · exact .refl
  · split
    · exact .refl
    · split
      · exact .refl
      · exact endHold_edits w _ _

theorem lapseRelease_edits (w : Work) (h : Handle) (r : Hire) : Edits w.store (w.lapseRelease h r).store := by
  unfold Work.lapseRelease
  dsimp only
  exact Edits.trans (Edits.raiseNotice (Edits.setDock (closeRelease_edits w h r) .same)) (closeCardAtLast_edits _ _)

theorem makeOverdue_edits (w : Work) (h : Handle) (r : Hire) : Edits w.store (w.makeOverdue h r).store := by
  unfold Work.makeOverdue
  dsimp only
  exact Edits.raiseNotice (Edits.addEntry (setHire_edits w h _))

theorem lostCard_inRange {t : Tariff} (h : Handle) (r : Hire) {c : Card} (ht : 0 ≤ t.lostFee) (hc : CardInRange c) :
    CardInRange (lostCard t h r c) := by
  have hb := hc.balance
  exact suspensionTest_inRange t (leaveCard_inRange h r.hold
    ⟨charge_inRange (by omega), hc.carry, hc.openHires, hc.hireLimit, hc.daySpent, hc.reportsToday⟩)

theorem lostCard_serial (t : Tariff) (h : Handle) (r : Hire) (c : Card) : (lostCard t h r c).serial = c.serial :=
  suspensionTest_serial _ _

theorem loseHire_edits (w : Work) (h : Handle) (r : Hire) {c : Card} (hc : cardAt w.store r.card = some c) :
    Edits w.store (w.loseHire h r c).store := by
  unfold Work.loseHire
  dsimp only
  refine Edits.trans (Edits.raiseNotice ?_) (closeCardAtLast_edits _ _)
  have hcard : Edits w.store (w.setCard r.card (lostCard w.store.tariff.active h r c)).store :=
    Edits.setCard .refl hc (lostCard_serial _ h r c) (fun ht hr => lostCard_inRange h r ht hr)
  exact Edits.setBike (hcard.trans (freeHire_edits _ h)) .same

theorem expireHold_edits (w : Work) (b k : Nat) (r : Reservation) : Edits w.store (w.expireHold b k r).store :=
  Edits.raiseNotice (endHold_edits w k b)

/-! ## The clock (R134, R145) -/

theorem timeSet_edits (w : Work) (q : Request) : Edits w.store (timeSet w q).2.store := by
  have hset : Edits w.store (w.setClock (param q 0 4)).store :=
    (Edit.clock (k := w.store.timer.captured) (.inr fun t ht => by cases ht; exact param_le)).edits
  unfold timeSet Work.startEpoch
  dsimp only
  split
  · exact hset
  · exact Edits.addEntry hset

/-! ## The fleet tables (R14 to R18) -/

theorem clampBand_inRange (low high : Nat) : BandInRange (clampBand low high) := by
  unfold BandInRange clampBand clamp64
  dsimp only
  omega

theorem clampThresholds_inRange (a b c d e : Nat) : ThresholdsInRange (clampThresholds a b c d e) := by
  unfold ThresholdsInRange clampThresholds clamp64
  dsimp only
  omega

theorem moveRange_edits (w : Work) (i first count : Nat) : Edits w.store (w.moveRange i first count).store := by
  unfold Work.moveRange
  dsimp only
  exact (foldl_edits (fun w d => Edits.setDock .refl .same) _ w).trans
    (foldl_edits (fun w d => Edits.setDock .refl .same) _ _)

theorem stationDefine_edits (w : Work) (q : Request) : Edits w.store (stationDefine w q).2.store := by
  unfold stationDefine
  dsimp only
  split
  · exact .refl
  · rename_i hrange
    split
    · exact .refl
    · rename_i hrefusal
      refine Edits.setStation (moveRange_edits w _ _ _) ⟨fun _ => ?_, fun h => h⟩
      have hlast : param q 1 2 + param q 3 1 ≤ Config.docks := by
        refine Nat.le_of_not_lt fun hlong => ?_
        unfold rangeRefusal at hrefusal
        dsimp only at hrefusal
        rw [if_pos hlong] at hrefusal
        exact hrefusal (by decide)
      refine ⟨?_, clampBand_inRange _ _, clampBand_inRange _ _, clampThresholds_inRange _ _ _ _ _,
        clampThresholds_inRange _ _ _ _ _, Nat.min_le_right _ _⟩
      simp only [Config.stationDocks, not_or, Nat.not_lt] at hrange
      dsimp only
      exact ⟨Nat.one_le_iff_ne_zero.mpr hrange.2.2.1, hrange.2.2.2, hlast⟩

theorem bikeCommission_edits (w : Work) (q : Request) : Edits w.store (bikeCommission w q).2.store := by
  unfold bikeCommission
  dsimp only
  split
  · exact .refl
  · split
    · exact Edits.setBike .refl ⟨.of_le (Nat.zero_le _), .of_le (Nat.zero_le _)⟩
    · exact .refl

theorem bikeDecommission_edits (w : Work) (q : Request) : Edits w.store (bikeDecommission w q).2.store := by
  unfold bikeDecommission
  dsimp only
  split
  · exact .refl
  · split
    · exact .refl
    · exact Edits.setWaiting (Edits.setBike .refl .same)

theorem dockCommission_edits (w : Work) (q : Request) : Edits w.store (dockCommission w q).2.store := by
  unfold dockCommission
  dsimp only
  split
  · exact .refl
  · split
    · exact .refl
    · exact Edits.setDock .refl (.of_le (Nat.zero_le _))

theorem bikeQuery_store (w : Work) (q : Request) : (bikeQuery w q).2 = w := by
  unfold bikeQuery
  dsimp only
  split <;> rfl

theorem stationQuery_store (w : Work) (q : Request) : (stationQuery w q).2 = w := by
  unfold stationQuery
  dsimp only
  split
  · rfl
  · split <;> rfl

/-! ## Tickets (R101 to R107) -/

/-- A van request that passes the checks of R112 edits the records as its own rule does. -/
theorem crewed_edits {w : Work} {q : Request} {rule : Nat → Reply × Work}
    (h : Edits w.store (rule (param q 0 1)).2.store) : Edits w.store (crewed w q rule).2.store := by
  unfold crewed
  split
  · exact .refl
  · split
    · exact .refl
    · exact h

theorem answerFault_edits (w : Work) (sub : Subject) (c : Cause) : Edits w.store (answerFault w sub c).2.store :=
  raiseFault_edits w sub c none

theorem dockStatus_edits (w : Work) (q : Request) : Edits w.store (dockStatus w q).2.store := by
  unfold dockStatus
  dsimp only
  split
  · exact .refl
  · split
    · exact .refl
    · split
      · exact .refl
      · exact answerFault_edits w _ _

theorem crewFlag_edits (w : Work) (q : Request) : Edits w.store (crewFlag w q).2.store := by
  refine crewed_edits ?_
  dsimp only
  split
  · exact .refl
  · split
    · exact .refl
    · exact answerFault_edits w _ _

theorem answerClose_edits (w : Work) (id : Handle) (t : Ticket) (o : Bool) :
    Edits w.store (answerClose w id t o).2.store := closeTicket_edits w id t o

theorem fieldClear_edits (w : Work) (q : Request) : Edits w.store (fieldClear w q).2.store := by
  refine crewed_edits ?_
  dsimp only
  split
  · exact .refl
  · split
    · exact .refl
    · split
      · exact .refl
      · split
        · exact answerClose_edits w _ _ _
        · exact .refl

theorem ticketClose_edits (w : Work) (q : Request) : Edits w.store (ticketClose w q).2.store := by
  unfold ticketClose
  dsimp only
  split
  · exact .refl
  · split
    · exact .refl
    · split
      · exact .refl
      · exact answerClose_edits w _ _ _

theorem workshopDrop_edits (w : Work) (q : Request) : Edits w.store (workshopDrop w q).2.store := by
  refine crewed_edits ?_
  dsimp only
  split
  · exact .refl
  · split
    · refine Edits.trans ?_ (moveTicket_edits _ _ _)
      exact Edits.setBike (leaveManifest_edits w _ _) .same
    · exact .refl

theorem clearPending_edits (w : Work) (d : Nat) : Edits w.store (w.clearPending d).1.store := by
  unfold Work.clearPending
  dsimp only
  have hf : Edits w.store
      (w.setFault (.dock d) { (dockAt w.store d).fault with pending := none }).store := setFault_edits w _ .same
  split
  · exact Edits.trans (Edits.setWaiting hf) (retire_edits _ _)
  · exact Edits.setWaiting hf

theorem dockRestore_edits (w : Work) (q : Request) : Edits w.store (dockRestore w q).2.store := by
  unfold dockRestore
  dsimp only
  split
  · exact .refl
  · split
    · exact closeTicket_edits w _ _ _
    · exact clearPending_edits w _
    · exact .refl

theorem ticketQuery_store (w : Work) (q : Request) : (ticketQuery w q).2 = w := by
  unfold ticketQuery
  dsimp only
  split
  · split <;> rfl
  · split
    · split <;> rfl
    · split <;> rfl

/-! ## Vans (R111 to R131) -/

theorem vanDefine_edits (w : Work) (q : Request) : Edits w.store (vanDefine w q).2.store := by
  unfold vanDefine
  dsimp only
  split
  · exact .refl
  · rename_i hrange
    split
    · exact .refl
    · simp only [Config.vanCapacity, not_or, Nat.not_lt] at hrange
      exact Edits.setVan .refl (.of_le hrange.2.2)

theorem vanShiftStart_edits (w : Work) (q : Request) : Edits w.store (vanShiftStart w q).2.store := by
  unfold vanShiftStart
  dsimp only
  split
  · exact .refl
  · split
    · exact .refl
    · exact Edits.setVan .refl .same

theorem vanShiftEnd_edits (w : Work) (q : Request) : Edits w.store (vanShiftEnd w q).2.store := by
  refine crewed_edits ?_
  dsimp only
  split
  · exact .refl
  · exact Edits.setVan (clearClaim_edits w _) .same

theorem moveClaim_edits (w : Work) (v i : Nat) : Edits w.store (w.moveClaim v i).1.store :=
  (clearClaim_edits w v).trans (setClaim_edits _ v i)

theorem vanSuggest_edits (w : Work) (q : Request) : Edits w.store (vanSuggest w q).2.store := by
  refine crewed_edits ?_
  dsimp only
  split
  · exact .refl
  · split
    · exact .refl
    · split
      · exact .refl
      · split
        · exact .refl
        · exact moveClaim_edits w _ _

theorem vanClaim_edits (w : Work) (q : Request) : Edits w.store (vanClaim w q).2.store := by
  refine crewed_edits ?_
  dsimp only
  split
  · exact .refl
  · exact moveClaim_edits w _ _

theorem vanReleaseClaim_edits (w : Work) (q : Request) : Edits w.store (vanReleaseClaim w q).2.store := by
  refine crewed_edits ?_
  dsimp only
  split
  · exact .refl
  · split
    · exact .refl
    · exact clearClaim_edits w _

theorem lapseClaim_edits (w : Work) (v : Nat) (c : Claim) : Edits w.store (w.lapseClaim v c).store :=
  Edits.raiseNotice (clearClaim_edits w v)

theorem vanLoad_edits (w : Work) (q : Request) : Edits w.store (vanLoad w q).2.store := by
  refine crewed_edits ?_
  dsimp only
  split
  · exact .refl
  · split
    · exact .refl
    · unfold Work.beginLoad
      dsimp only
      exact Edits.addEntry (Edits.setVan (Edits.setDock (Edits.setBike .refl .same) .same) .same)

theorem lapseLoad_edits (w : Work) (v d b : Nat) : Edits w.store (w.lapseLoad v d b).store :=
  Edits.raiseNotice (endLoad_edits w v d b)

theorem workshopPickup_edits (w : Work) (q : Request) : Edits w.store (workshopPickup w q).2.store := by
  refine crewed_edits ?_
  dsimp only
  split
  · exact .refl
  · split
    · exact .refl
    · exact Edits.setBike (Edits.setVan .refl .same) .same

theorem vanQuery_edits (w : Work) (q : Request) : Edits w.store (vanQuery w q).2.store := crewed_edits .refl

end Sys2Proof.Proofs
end

section
/-! PROOF. The moves of the part: every command changes the part by a sequence of a few kinds of move, whatever the
bus answers. An invariant of the part that each kind of move keeps is kept by every step. -/

namespace Sys2Proof.Proofs

open Sys2Proof Sys2Proof.Machine Sys2Proof.Laws

-- One thread: the whole text is compiled in one process, whose threads the check limits.
set_option Elab.async false

/-! ## The kinds of move -/

/-- A ring rewritten: a ring at work keeps its places and its indexes stand or advance; a ring of a RUNNING engine
starts with the places of the settings; or the ring is OFF. -/
inductive RingMove (s : State) (n : Nat) : Ring → Prop
  | work {r : Ring} (h : (ringAt s n).state ≠ .off) (hreq : r.request = (ringAt s n).request)
      (hresp : r.response = (ringAt s n).response)
      (hhead : r.head = (ringAt s n).head ∨ r.head = advance (ringAt s n).request (ringAt s n).head)
      (hindex : r.responseIndex = (ringAt s n).responseIndex ∨
        r.responseIndex = advance (ringAt s n).response (ringAt s n).responseIndex) : RingMove s n r
  | start {r : Ring} (hn : n < requestRings) (h : s.engine.state = .running)
      (hreq : r.request = readAt ⟨0, 0⟩ s.settings.requestRings n)
      (hresp : r.response = readAt ⟨0, 0⟩ s.settings.responseRings n) (hhead : r.head = 0)
      (hindex : r.responseIndex = 0) : RingMove s n r
  | off {r : Ring} (h : r.state = .off) : RingMove s n r

/-- Pass-over counts rewritten within their range, in the one form of their table. -/
structure CountsMove (p p' : Table Nat) : Prop where
  form : canonical 0 p = true → canonical 0 p' = true
  range : (∀ k, readAt 0 p k ≤ Config.passOverMax) → ∀ k, readAt 0 p' k ≤ Config.passOverMax

/-- R47: a load after one more image, which counts in one tally. -/
structure LoadMove (b b' : BulkLoad) : Prop where
  count : b'.count = b.count
  progress : b'.progress = b.progress + 1
  processed : b'.processed = b.processed + 1
  tallies : b'.created + b'.updated + b'.refused = b.created + b.updated + b.refused + 1

/-- One move of the part. -/
inductive Move : State → State → Prop
  | hub {s : State} {m : Table Byte} {l : List BusAnswer} (h : Memory.wf s.hub.mem = true → Memory.wf m = true) :
      Move s (withHub s m l)
  | port {s : State} {p : Port} : Move s { s with port := p }
  | queue {s : State} {l : List Instr} : Move s (s.withQueue l)
  | records {s : State} {st : Store} (h : Edits s.store st)
      (hc : s.engine.state = .running ∨ (s.store.timer.clock = none → st.timer.clock = none)) :
      Move s { s with store := st }
  | ring {s : State} {n : Nat} {r : Ring} (h : RingMove s n r) : Move s (setRing s n r)
  | counts {s : State} {p : Table Nat} (h : CountsMove s.passOver p) : Move s (withCounts s p)
  | notice {s : State} {i : Nat}
      (h : i = s.rings.noticeIndex ∨ i = advance s.rings.notice s.rings.noticeIndex) :
      Move s { s with rings.noticeIndex := i }
  | inHand {s : State} {x : Option Nat} : Move s { s with rings.inHand := x }
  | stopPending {s : State} (h : s.engine.state = .running) : Move s { s with engine.stopPending := true }
  | takeLoad {s : State} {b : BulkLoad} {slot : ReservedSlot} (h : s.engine.state = .running)
      (hc : 1 ≤ b.count ∧ b.count ≤ Config.bulkImages)
      (hb : b.progress = 0 ∧ b.created = 0 ∧ b.updated = 0 ∧ b.refused = 0 ∧ b.processed = 0) :
      Move s { s with bulk := some b, rings.reserved := some slot }
  | load {s : State} {b b' : BulkLoad} (hb : s.bulk = some b) (h : s.engine.state = .running) (hl : LoadMove b b')
      (hc : b'.progress ≠ b'.count) : Move s { s with bulk := some b' }
  | unload {s : State} : Move s { s with bulk := none, rings.reserved := none }
  | beginInit {s : State} {kind : InitKind} (h : s.engine.state = .stopped) (hr : s.engine.resetAsserted = false) :
      Move s { s with engine.state := .initializing kind }
  | failInit {s : State} {x : InitResult} (h : s.engine.state ≠ .running) :
      Move s { s with engine := { s.engine with state := .stopped, lastInit := x } }
  | init {s : State} {kind : InitKind} {block : Nat} (h : s.engine.state = .initializing kind) :
      Move s (completeInit s kind block)
  | halt {s : State} (hb : s.bulk = none) (h : ∀ n < requestRings, (ringAt s n).state = .off) :
      Move s { s with passOver := [], engine := { s.engine with state := .stopped, stopPending := false } }
  | reset {s : State} {stays : Bool} : Move s (resetPart stays s)

/-- A sequence of moves. -/
inductive Moves (a : State) : State → Prop
  | refl : Moves a a
  | andThen {b c : State} (h : Moves a b) (k : Move b c) : Moves a c

theorem Moves.trans {a b c : State} (h : Moves a b) (k : Moves b c) : Moves a c := by
  induction k with
  | refl => exact h
  | andThen _ hs ih => exact ih.andThen hs

theorem Move.moves {a b : State} (h : Move a b) : Moves a b := .andThen .refl h

/-- What each move keeps, a sequence of moves keeps. -/
theorem Moves.keeps {P : State → Prop} (hp : ∀ a b, Move a b → P a → P b) {a b : State} (h : Moves a b)
    (ha : P a) : P b := by
  induction h with
  | refl => exact ha
  | andThen _ hs ih => exact hp _ _ hs ih

/-! ## The bus -/

/-- Hub memory with its one form kept, the bus's answers replaced. -/
structure OnBus (s t : State) (m : Table Byte) (l : List BusAnswer) : Prop where
  eq : t = withHub s m l
  wf : Memory.wf s.hub.mem = true → Memory.wf m = true

theorem OnBus.moves {s t : State} {m : Table Byte} {l : List BusAnswer} (h : OnBus s t m l) : Moves s t := by
  obtain ⟨rfl, hw⟩ := h
  exact (Move.hub hw).moves

theorem OnBus.rings {s t : State} {m : Table Byte} {l : List BusAnswer} (h : OnBus s t m l) : t.rings = s.rings := by
  obtain ⟨rfl, -⟩ := h
  rfl

theorem busAnswer_onBus (s : State) : ∃ l, OnBus s (busAnswer s).2 s.hub.mem l := by
  unfold busAnswer
  split
  · exact ⟨s.hub.answers, rfl, id⟩
  all_goals exact ⟨_, rfl, id⟩

theorem busRead_onBus (s : State) (a n : Nat) : ∃ m l, OnBus s (busRead s a n).2 m l := by
  obtain ⟨l, h⟩ := busAnswer_onBus s
  refine ⟨s.hub.mem, l, ?_⟩
  unfold busRead
  split <;> (rename_i he; rw [he] at h; exact h)

theorem busOwn_onBus (s : State) (a : Nat) : ∃ m l, OnBus s (busOwn s a).2 m l := by
  obtain ⟨m, l, h⟩ := busRead_onBus s a 1
  refine ⟨m, l, ?_⟩
  unfold busOwn
  split <;> (rename_i he; rw [he] at h; exact h)

theorem busWrite_onBus (s : State) (a : Nat) (b : List Byte) (p : Bool) :
    ∃ m l, OnBus s (busWrite s a b p).2 m l := by
  obtain ⟨l, h⟩ := busAnswer_onBus s
  refine ⟨(busWrite s a b p).2.hub.mem, l, ?_, busWrite_wf s a b p⟩
  unfold busWrite
  split
  · rename_i he
    rw [he] at h
    obtain ⟨rfl, -⟩ := h
    rfl
  all_goals
    rename_i he
    rw [he] at h
    obtain ⟨rfl, -⟩ := h
    unfold storePart
    split <;> rfl

theorem beginCommand_moves (s : State) (hub : HubInput) : Moves s (beginCommand s hub) :=
  (Move.hub (m := hubStores s.hub.mem hub.writes) (l := hub.answers) (hubStores_wf _ _)).moves

theorem raiseEvent_moves (s : State) (e : BitVec 10) : Moves s (raiseEvent s e) := Move.moves .port

/-! ## Looks and notices (R156, R166) -/

/-- A ring that a look may set: one at work, or one of a RUNNING engine that START has placed. -/
def Lookable (s : State) (n : Nat) : Prop := ∀ x, RingMove s n { ringAt s n with state := x }

theorem lookable_of_work {s : State} {n : Nat} (h : (ringAt s n).state ≠ .off) : Lookable s n :=
  fun _ => .work h rfl rfl (.inl rfl) (.inl rfl)

theorem Lookable.onBus {s t : State} {n : Nat} {m : Table Byte} {l : List BusAnswer} (h : Lookable s n)
    (hb : OnBus s t m l) : Lookable t n := by
  obtain ⟨rfl, -⟩ := hb
  intro x
  cases h x with
  | work h1 h2 h3 h4 h5 => exact .work h1 h2 h3 h4 h5
  | start hn h1 h2 h3 h4 h5 => exact .start hn h1 h2 h3 h4 h5
  | off h1 => exact .off h1

theorem setRingState_moves {s : State} {n : Nat} (h : Lookable s n) (x : RingState) : Moves s (setRingState s n x) :=
  (Move.ring (h x)).moves

theorem failRing_moves {s : State} {n : Nat} (h : Lookable s n) : Moves s (failRing s n) :=
  (setRingState_moves h _).trans (raiseEvent_moves _ _)

theorem look_moves {s : State} {n : Nat} (h : Lookable s n) : Moves s (look s n) := by
  unfold look
  dsimp only
  obtain ⟨m, l, hb⟩ := busOwn_onBus s (slotAddress (ringAt s n).request (ringAt s n).head)
  generalize busOwn s (slotAddress (ringAt s n).request (ringAt s n).head) = p at hb
  obtain ⟨v, u⟩ := p
  have hu : Lookable u n := h.onBus hb
  refine hb.moves.trans ?_
  match v with
  | none => exact failRing_moves hu
  | some false => exact setRingState_moves hu _
  | some true =>
    dsimp only
    split
    · exact setRingState_moves hu _
    · obtain ⟨m', l', hb'⟩ := busOwn_onBus u (slotAddress (ringAt s n).response (ringAt s n).responseIndex)
      generalize busOwn u (slotAddress (ringAt s n).response (ringAt s n).responseIndex) = p' at hb'
      obtain ⟨v', u'⟩ := p'
      refine hb'.moves.trans ?_
      match v' with
      | none => exact failRing_moves (hu.onBus hb')
      | some _ => exact setRingState_moves (hu.onBus hb') _

theorem turnOff_moves (s : State) (n : Nat) : Moves s (turnOff s n) := (Move.ring (.off rfl)).moves

theorem endGrant_moves {s : State} {n : Nat} {next : State → State} (h : Moves s (next s)) :
    Moves s (endGrant s n next) := by
  unfold endGrant
  split
  · exact turnOff_moves s n
  · exact h

theorem lookAgain_moves {s : State} {n : Nat} (h : (ringAt s n).state ≠ .off) : Moves s (lookAgain s n) :=
  endGrant_moves (look_moves (lookable_of_work h))

/-- R166: a notice reaches hub memory, the notice index and the event flags alone. -/
theorem writeNotice_moves (s : State) (n : Notice) :
    Moves s (writeNotice s n) ∧ (writeNotice s n).rings.rings = s.rings.rings := by
  unfold writeNotice
  dsimp only
  obtain ⟨m, l, hb⟩ := busOwn_onBus s (slotAddress s.rings.notice s.rings.noticeIndex)
  generalize busOwn s (slotAddress s.rings.notice s.rings.noticeIndex) = p at hb
  obtain ⟨v, u⟩ := p
  have hu : u.rings = s.rings := hb.rings
  match v with
  | none => exact ⟨hb.moves.andThen .port, congrArg RingInterface.rings hu⟩
  | some false => exact ⟨hb.moves.andThen .port, congrArg RingInterface.rings hu⟩
  | some true =>
    dsimp only
    obtain ⟨m', l', hb'⟩ := busWrite_onBus u (slotAddress s.rings.notice s.rings.noticeIndex)
      (noticeBytes u.store.timer.clock n) false
    generalize busWrite u (slotAddress s.rings.notice s.rings.noticeIndex) (noticeBytes u.store.timer.clock n) false =
      p' at hb'
    obtain ⟨v', u'⟩ := p'
    have hu' : u'.rings.rings = s.rings.rings :=
      congrArg RingInterface.rings (hb'.rings.trans hu)
    match v' with
    | false => exact ⟨(hb.moves.trans hb'.moves).andThen .port, hu'⟩
    | true =>
      refine ⟨((hb.moves.trans hb'.moves).andThen (.notice (i := advance u'.rings.notice u'.rings.noticeIndex)
        (.inr rfl))).andThen .port, hu'⟩

theorem writeNotices_moves (l : List Notice) (s : State) :
    Moves s (writeNotices s l) ∧ (writeNotices s l).rings.rings = s.rings.rings := by
  induction l generalizing s with
  | nil => exact ⟨.refl, rfl⟩
  | cons n l ih =>
    obtain ⟨h1, e1⟩ := writeNotice_moves s n
    obtain ⟨h2, e2⟩ := ih (writeNotice s n)
    exact ⟨h1.trans h2, e2.trans e1⟩

/-! ## Responses (R163, R164) -/

theorem ringAt_congr {s t : State} (h : t.rings.rings = s.rings.rings) (n : Nat) : ringAt t n = ringAt s n :=
  congrArg (fun r => readAt formattedRing r n) h

theorem writeBlock_onBus (s : State) (q : Request) (r : Reply) : ∃ m l, OnBus s (writeBlock s q r).2 m l := by
  unfold writeBlock
  split
  · exact busWrite_onBus _ _ _ _
  · exact ⟨s.hub.mem, s.hub.answers, rfl, id⟩

theorem writeResponse_moves (s : State) (n : Nat) (code : Byte) (q : Request) (r : Reply) :
    Moves s (writeResponse s n code q r).2 ∧ (writeResponse s n code q r).2.rings = s.rings := by
  unfold writeResponse
  obtain ⟨m, l, hb⟩ := writeBlock_onBus s q r
  generalize writeBlock s q r = p at hb
  obtain ⟨v, u⟩ := p
  have hu : u.rings = s.rings := hb.rings
  match v with
  | false => exact ⟨hb.moves, hu⟩
  | true =>
    obtain ⟨m', l', hb'⟩ := busWrite_onBus u (slotAddress (ringAt u n).response (ringAt u n).responseIndex)
      (responseBytes code q.tag r (isTruncated q r) (wantsBlock q r)) false
    exact ⟨hb.moves.trans hb'.moves, hb'.rings.trans hu⟩

theorem answer_moves {s : State} {n : Nat} (h : (ringAt s n).state ≠ .off) (code : Byte) (q : Request) (r : Reply)
    (l : List Notice) : Moves s (answer s n code q r l) := by
  unfold answer
  obtain ⟨hm, hr⟩ := writeResponse_moves s n code q r
  generalize writeResponse s n code q r = p at hm hr
  obtain ⟨v, u⟩ := p
  have hu : ringAt u n = ringAt s n := ringAt_congr (congrArg RingInterface.rings hr) n
  refine hm.trans ?_
  match v with
  | true =>
    dsimp only
    generalize hx : raiseEvent (setRing u n { ringAt u n with
      responseIndex := advance (ringAt u n).response (ringAt u n).responseIndex }) (responseWritten n) = x
    have hux : Moves u x := by
      rw [← hx]
      refine Moves.trans ?_ (raiseEvent_moves _ _)
      exact Move.moves (.ring (.work (hu ▸ h) rfl rfl (.inl rfl) (.inr rfl)))
    have hring : (ringAt x n).state = (ringAt u n).state := by
      rw [← hx]
      change (ringAt (setRing u n _) n).state = _
      rw [ringAt_setRing_same]
    obtain ⟨hn, en⟩ := writeNotices_moves l x
    refine (hux.trans hn).trans (lookAgain_moves ?_)
    rw [ringAt_congr en, hring, hu]
    exact h
  | false =>
    dsimp only
    obtain ⟨hn, en⟩ := writeNotices_moves l (raiseEvent u ringFailed)
    refine ((raiseEvent_moves u ringFailed).trans hn).trans (endGrant_moves (setRingState_moves (lookable_of_work ?_) _))
    rw [ringAt_congr en]
    exact hu ▸ h

/-- R164: the slot at the response index is reserved for a load that is taken. -/
theorem reserveSlot_moves {s : State} {b : BulkLoad} {n : Nat} (q : Request) (hrun : s.engine.state = .running)
    (h : (ringAt s n).state ≠ .off) (hc : 1 ≤ b.count ∧ b.count ≤ Config.bulkImages)
    (hb : b.progress = 0 ∧ b.created = 0 ∧ b.updated = 0 ∧ b.refused = 0 ∧ b.processed = 0) :
    Moves s (reserveSlot { s with bulk := some b } n q) := by
  unfold reserveSlot
  have h1 : Move s { s with bulk := some b, rings.reserved := some ⟨(ringAt s n).responseIndex, q.tag⟩ } :=
    .takeLoad hrun hc hb
  refine h1.moves.trans (Moves.trans ?_ (lookAgain_moves ?_))
  · exact Move.moves (.ring (.work h rfl rfl (.inl rfl) (.inr rfl)))
  · rw [ringAt_setRing_same]
    exact h

/-! ## The arbiter (R168) -/

theorem countsMove_writeAt {p p' : Table Nat} (h : CountsMove p p') (k n : Nat)
    (hn : (∀ k, readAt 0 p k ≤ Config.passOverMax) → n ≤ Config.passOverMax) : CountsMove p (writeAt 0 p' k n) := by
  refine ⟨fun hf => canonical_writeAt _ _ _ _ (h.form hf), fun hr j => ?_⟩
  rw [readAt_writeAt]
  split
  · exact hn hr
  · exact h.range hr j

theorem countAfterGrant_le (s : State) (g r : Requester) : countAfterGrant s g r ≤ Config.passOverMax := by
  unfold countAfterGrant
  split
  · exact Nat.zero_le _
  · split
    · exact Nat.min_le_right _ _
    · exact Nat.zero_le _

theorem countsMove_fold {f : Table Nat → Requester → Table Nat}
    (hf : ∀ p p' r, CountsMove p p' → CountsMove p (f p' r)) (l : List Requester) {p p' : Table Nat}
    (h : CountsMove p p') : CountsMove p (l.foldl f p') := by
  induction l generalizing p' with
  | nil => exact h
  | cons r l ih => exact ih (hf _ _ _ h)

theorem chargeGrant_moves (s : State) (g : Requester) : Moves s (chargeGrant s g) := by
  have he : chargeGrant s g = _ := charge_fold (countAfterGrant s g) requesters s s.passOver
  rw [he]
  refine (Move.counts (countsMove_fold (fun _ _ _ h => ?_) _ ⟨id, id⟩)).moves
  exact countsMove_writeAt h _ _ (fun _ => countAfterGrant_le s g _)

theorem settleCounts_moves (s : State) : Moves s (settleCounts s) := by
  have he : settleCounts s = _ := settle_fold s requesters s.passOver
  rw [he]
  refine (Move.counts (countsMove_fold (fun _ _ _ h => ?_) _ ⟨id, id⟩)).moves
  unfold settledCount
  split
  · exact h
  · exact countsMove_writeAt h _ _ (fun _ => Nat.zero_le _)

theorem endCommand_moves (s : State) : Moves s (endCommand s) := by
  unfold endCommand
  split
  · exact Move.moves .reset
  · refine Moves.trans ?_ (settleCounts_moves _)
    exact (Move.moves (.inHand (x := none))).andThen (.hub (m := s.hub.mem) (l := []) id)

/-! ## The STOP of a ring and of the engine (R159, R178) -/

theorem turnAllOff_off (s : State) : Moves s (turnAllOff s) ∧ (turnAllOff s).bulk = s.bulk ∧
    ∀ n < requestRings, (ringAt (turnAllOff s) n).state = .off := by
  refine ⟨?_, rfl, fun n hn => ?_⟩
  · exact ((turnOff_moves s 0).trans (turnOff_moves _ 1)).trans ((turnOff_moves _ 2).trans (turnOff_moves _ 3))
  · rw [ringAt_turnAllOff, if_pos hn]

theorem haltEngine_moves {s : State} (h : s.bulk = none) : Moves s (haltEngine s) := by
  obtain ⟨hm, hb, hoff⟩ := turnAllOff_off s
  exact (hm.andThen (.halt (hb.trans h) hoff)).trans (raiseEvent_moves _ _)

theorem stopEngine_moves (s : State) : Moves s (stopEngine s) := by
  unfold stopEngine
  split
  · rename_i hrun
    split
    · rename_i hidle
      exact haltEngine_moves hidle.2
    · exact Move.moves (.stopPending hrun.1)
  · exact .refl

theorem stopRing_moves (s : State) (n : Nat) : Moves s (stopRing s n) := by
  unfold stopRing
  split
  · split
    · exact .refl
    · rename_i hready
      split
      · refine Move.moves (.ring (.work ?_ rfl rfl (.inl rfl) (.inl rfl)))
        rw [hready]
        decide
      · exact turnOff_moves s n
    all_goals exact turnOff_moves s n
  · exact .refl

end Sys2Proof.Proofs
end

section
/-! PROOF. Every step is a sequence of moves: the grants to a ring, to the Timer Unit and to the Bulk Loader, the
ring commands, and the writes of the control port. -/

namespace Sys2Proof.Proofs

open Sys2Proof Sys2Proof.Machine Sys2Proof.Laws

-- One thread: the whole text is compiled in one process, whose threads the check limits.
set_option Elab.async false

/-! ## Grants to a ring (R160) -/

/-- What carrying out a request does: moves, and then an answer with the rings as they were, or a reservation. -/
def HandledMoves (q : Request) (u : State) : Handled → Prop
  | .answered t _ _ => Moves u t ∧ t.rings = u.rings
  | .reserved t => Moves u (reserveSlot t q.ring.val q)

/-- What the rule of a code does to a part with a RUNNING engine whose request is in hand. -/
def RuleMoves (rule : State → Request → Handled) : Prop :=
  ∀ (q : Request) (u : State), u.engine.state = .running → (ringAt u q.ring.val).state ≠ .off →
    HandledMoves q u (rule u q)

theorem carryOut_moves {rule : State → Request → Handled} (hr : RuleMoves rule) (code : Byte) {q : Request} {u : State}
    (hrun : u.engine.state = .running) (h : (ringAt u q.ring.val).state ≠ .off) :
    Moves u (carryOut code rule q u) := by
  unfold carryOut
  split
  · exact answer_moves h _ _ _ _
  · have hm := hr q u hrun h
    revert hm
    cases rule u q with
    | answered t r l =>
      rintro ⟨hm, ht⟩
      exact Moves.trans hm (answer_moves (by rw [ringAt_congr (congrArg RingInterface.rings ht)]; exact h) _ _ _ _)
    | reserved t => exact id

theorem OnBus.engine {s t : State} {m : Table Byte} {l : List BusAnswer} (h : OnBus s t m l) : t.engine = s.engine := by
  obtain ⟨rfl, -⟩ := h
  rfl

/-- R162: a bus error on a descriptor fails the ring, or a pending STOP ends it. -/
theorem failDescriptor_moves {u : State} {n : Nat} (h : (ringAt u n).state ≠ .off) :
    Moves u (endGrant (raiseEvent u ringFailed) n (fun s => setRingState s n .failed)) :=
  (raiseEvent_moves u ringFailed).trans
    (endGrant_moves (setRingState_moves (s := raiseEvent u ringFailed) (lookable_of_work h) _))

theorem takeDescriptor_moves {rule : State → Request → Handled} (hr : RuleMoves rule) (code : Byte) {q : Request}
    {g : State} (hrun : g.engine.state = .running) (h : (ringAt g q.ring.val).state ≠ .off) :
    Moves g (takeDescriptor code rule q g) := by
  unfold takeDescriptor
  dsimp only
  generalize slotAddress (ringAt g q.ring.val).request (ringAt g q.ring.val).head = a
  have h0 : OnBus g { g with hub.mem := memWrite g.hub.mem a (descriptorBytes code q) }
      (memWrite g.hub.mem a (descriptorBytes code q)) g.hub.answers := ⟨rfl, memWrite_wf _ _ _⟩
  generalize ({ g with hub.mem := memWrite g.hub.mem a (descriptorBytes code q) } : State) = x at h0
  obtain ⟨m, l, hb⟩ := busRead_onBus x a 32
  generalize busRead x a 32 = p at hb
  obtain ⟨v, u⟩ := p
  have hu : (ringAt u q.ring.val).state ≠ .off := by
    rw [ringAt_congr (congrArg RingInterface.rings (hb.rings.trans h0.rings))]
    exact h
  refine (h0.moves.trans hb.moves).trans ?_
  match v with
  | none => exact failDescriptor_moves hu
  | some _ =>
    dsimp only
    split
    · obtain ⟨m', l', hb'⟩ := busWrite_onBus u a (writtenBackBytes code q) false
      generalize busWrite u a (writtenBackBytes code q) false = p' at hb'
      obtain ⟨v', u'⟩ := p'
      have hu' : (ringAt u' q.ring.val).state ≠ .off := by
        rw [ringAt_congr (congrArg RingInterface.rings hb'.rings)]
        exact hu
      refine hb'.moves.trans ?_
      match v' with
      | false => exact failDescriptor_moves hu'
      | true =>
        dsimp only
        have hx : Moves u' (setRing u' q.ring.val { ringAt u' q.ring.val with
            head := advance (ringAt u' q.ring.val).request (ringAt u' q.ring.val).head }) :=
          Move.moves (.ring (.work hu' rfl rfl (.inr rfl) (.inl rfl)))
        refine hx.trans (carryOut_moves hr code ?_ ?_)
        · rw [setRing_engine, hb'.engine, hb.engine, h0.engine]
          exact hrun
        · rw [ringAt_setRing_same]
          exact hu'
    · exact endGrant_moves (setRingState_moves (lookable_of_work hu) _)

theorem grantRing_moves (q : Request) (s : State) : Moves s (grantRing q s) := by
  unfold grantRing meanwhile
  dsimp only
  have h0 := ((beginCommand_moves s q.hub).trans (chargeGrant_moves _ (.ring q.ring.val))).andThen
    (.inHand (x := some q.ring.val))
  generalize ({ chargeGrant (beginCommand s q.hub) (.ring q.ring.val) with rings.inHand := some q.ring.val } : State) = c
    at h0
  have h1 : Moves s (if q.stopRing = true then stopRing c q.ring.val else c) := by
    split
    · exact h0.trans (stopRing_moves _ _)
    · exact h0
  generalize (if q.stopRing = true then stopRing c q.ring.val else c) = r at h1
  split
  · exact h1.trans (stopEngine_moves _)
  · exact h1

theorem grantRequest_moves {rule : State → Request → Handled} (hr : RuleMoves rule) (code : Byte) (q : Request)
    (s : State) : Moves s (grantRequest code rule q s) := by
  unfold grantRequest
  split
  · rename_i hg
    obtain ⟨hrun, -, hready⟩ := granted_ready hg
    have hh := grantRing_held hg
    refine ((grantRing_moves q s).trans (takeDescriptor_moves hr code ?_ ?_)).trans (endCommand_moves _)
    · rw [hh.engine]
      exact hrun
    · rw [hh.ring]
      exact fun h => by rw [hready] at h; cases h
  · exact .refl

theorem workRule_moves {rule : Work → Request → Reply × Work}
    (h : ∀ w q, Edits w.store (rule w q).2.store) : RuleMoves (workRule rule) := fun q u hrun _ =>
  ⟨Move.moves (.records ((h ⟨u.settings, u.store, [], []⟩ q).trans (settle_edits _)) (.inl hrun)), rfl⟩

/-- A rule that changes no record. -/
theorem workRule_moves_of_same {rule : Work → Request → Reply × Work} (h : ∀ w q, (rule w q).2 = w) :
    RuleMoves (workRule rule) := workRule_moves (fun w q => by rw [h w q]; exact .refl)

theorem refusal_moves {q : Request} {u : State} {r : Reply} {l : List Notice} :
    HandledMoves q u (.answered u r l) := ⟨.refl, rfl⟩

theorem noRule_moves : RuleMoves noRule := fun _ _ _ _ => refusal_moves

theorem bulkCardLoad_moves : RuleMoves bulkCardLoad := by
  intro q u hrun hring
  unfold bulkCardLoad
  dsimp only
  by_cases h1 : param q 4 2 = 0
  · rw [if_pos h1]
    exact refusal_moves
  by_cases h2 : Config.bulkImages < param q 4 2
  · rw [if_neg h1, if_pos h2]
    exact refusal_moves
  by_cases h3 : u.bulk.isSome = true
  · rw [if_neg h1, if_neg h2, if_pos h3]
    exact refusal_moves
  · rw [if_neg h1, if_neg h2, if_neg h3]
    exact reserveSlot_moves q hrun hring ⟨Nat.pos_of_ne_zero h1, Nat.not_lt.mp h2⟩ ⟨rfl, rfl, rfl, rfl, rfl⟩

theorem tariffLoad_moves
    (hinstall : ∀ c st block, Edits st (installTariff c st block).1) : RuleMoves tariffLoad := by
  intro q u hrun _
  unfold tariffLoad
  split
  · exact refusal_moves
  · obtain ⟨m, l, hb⟩ := busRead_onBus u (param q 0 4) Config.tariffBytes
    generalize busRead u (param q 0 4) Config.tariffBytes = p at hb
    obtain ⟨v, x⟩ := p
    match v with
    | none => exact ⟨hb.moves, hb.rings⟩
    | some block =>
      have hx : x.engine.state = .running := by rw [hb.engine]; exact hrun
      exact ⟨hb.moves.andThen (.records (hinstall x.settings.checking x.store block) (.inl hx)), hb.rings⟩

/-! ## Grants to the Timer Unit and to the Bulk Loader (R47, R150) -/

theorem still_beginCharge (s : State) (hub : HubInput) (g : Requester) :
    ∃ p, chargeGrant (beginCommand s hub) g = withCounts (beginCommand s hub) p := by
  obtain ⟨p, hp, -⟩ := chargeGrant_eq (beginCommand s hub) g
  exact ⟨p, hp⟩

theorem grantExpiry_moves {s : State} (hrun : s.engine.state = .running) (hub : HubInput) {rule : Work → Work}
    (hr : ∀ w, w.store = headTaken s.store → Edits w.store (rule w).store) : Moves s (grantExpiry hub rule s) := by
  have hm := (beginCommand_moves s hub).trans (chargeGrant_moves (beginCommand s hub) .timer)
  obtain ⟨p, hp⟩ := still_beginCharge s hub .timer
  have hw := hr ⟨s.settings, headTaken s.store, [], []⟩ rfl
  rw [hp] at hm
  unfold grantExpiry
  dsimp only
  rw [hp]
  refine Moves.trans (Moves.trans (hm.andThen (.records ?_ (.inl hrun))) (writeNotices_moves _ _).1) (endCommand_moves _)
  exact Edits.trans Edit.tail.edits (hw.trans (settle_edits _))

/-- R164: what follows the write of the reserved slot, or its failure. -/
theorem afterReserved_moves (s : State) (written : Bool) : Moves s (afterReserved s written) := by
  have hwork : ∀ {x : RingState} {e : BitVec 10}, x ≠ .off → (ringAt s officeRing).state = x →
      Lookable (raiseEvent s e) officeRing := fun hx h => lookable_of_work (s := raiseEvent s _) (fun ho => hx (h.symm.trans ho))
  unfold afterReserved
  dsimp only
  split
  · split
    · rename_i h
      exact (raiseEvent_moves _ _).trans (look_moves (hwork (by decide) h))
    · exact raiseEvent_moves _ _
  · split
    · rename_i h
      refine (raiseEvent_moves _ _).trans (setRingState_moves ?_ _)
      rcases h with h | h | h <;> exact hwork (by decide) h
    · exact raiseEvent_moves _ _

/-- R48: the end of a load, whatever its progress. -/
theorem endBulk_moves (s : State) (x : Option BulkLoad) (b : BulkLoad) (o : OutcomeCode) :
    Moves s (endBulk { s with bulk := x } b o) := by
  unfold endBulk
  dsimp only
  cases hs : s.rings.reserved with
  | none =>
    have he : ({ s with bulk := none } : State) = { s with bulk := none, rings.reserved := none } := by rw [← hs]
    dsimp only
    rw [he]
    exact Move.moves .unload
  | some slot =>
    dsimp only
    obtain ⟨m, l, hb⟩ := busWrite_onBus { s with bulk := x }
      (slotAddress (ringAt { s with bulk := x } officeRing).response slot.index)
      (responseBytes bulkCardLoadCode slot.tag { outcome := o, result := tallies b } false false) false
    generalize busWrite { s with bulk := x } _ _ _ = p at hb
    obtain ⟨v, u⟩ := p
    obtain ⟨hu, hw⟩ := hb
    dsimp only at hu ⊢
    rw [hu]
    refine Moves.trans ?_ (afterReserved_moves _ v)
    exact (Move.moves (Move.hub (s := s) (m := m) (l := l) hw)).andThen .unload

theorem applyImage_loadMove (set : Settings) (st : Store) (b : BulkLoad) (block : Nat) :
    LoadMove b (applyImage set st b block).2 := by
  unfold applyImage
  dsimp only
  split
  · exact ⟨rfl, rfl, rfl, rfl⟩
  · split
    · exact ⟨rfl, rfl, rfl, rfl⟩
    · exact ⟨rfl, rfl, rfl, rfl⟩
    · refine ⟨rfl, rfl, rfl, ?_⟩
      dsimp only
      omega
    · refine ⟨rfl, rfl, rfl, ?_⟩
      dsimp only
      omega

theorem bulkImage_moves {s : State} {b : BulkLoad} (hb : s.bulk = some b) (hrun : s.engine.state = .running) :
    Moves s (bulkImage s b) := by
  unfold bulkImage
  obtain ⟨m, l, hr⟩ := busRead_onBus s (b.address + 32 * b.progress) Config.imageBytes
  generalize busRead s (b.address + 32 * b.progress) Config.imageBytes = p at hr
  obtain ⟨v, u⟩ := p
  refine hr.moves.trans ?_
  have hu : u.bulk = some b := (congrArg State.bulk hr.eq).trans hb
  have hur : u.engine.state = .running := by rw [hr.engine]; exact hrun
  match v with
  | none => exact endBulk_moves u u.bulk b .busError
  | some block =>
    dsimp only
    have he := applyImage_edits u.settings u.store b block
    have hl := applyImage_loadMove u.settings u.store b block
    generalize applyImage u.settings u.store b block = p at he hl
    obtain ⟨st, b'⟩ := p
    dsimp only
    have hm : Moves u { u with store := st } := Move.moves (.records he (.inl hur))
    split
    · exact hm.trans (endBulk_moves { u with store := st } (some b') b' .ok)
    · rename_i hc
      exact hm.andThen (.load hu hur hl hc)

/-! ## Ring commands and the control port (R158, R172 to R181) -/

theorem startRing_moves (s : State) (n : Nat) : Moves s (startRing s n) := by
  unfold startRing
  split
  · rename_i h
    obtain ⟨hn, -, hrun⟩ := h
    refine (Move.moves (.ring (.start hn hrun rfl rfl rfl rfl))).trans (look_moves (fun x => ?_))
    rw [ringAt_setRing_same]
    exact .start hn hrun rfl rfl rfl rfl
  · exact .refl

theorem kickRing_moves (s : State) (n : Nat) : Moves s (kickRing s n) := by
  unfold kickRing
  split
  · rename_i h
    refine look_moves (lookable_of_work ?_)
    rcases h.2 with h | h <;> rw [h] <;> decide
  · exact .refl

theorem resumeRing_moves (s : State) (n : Nat) : Moves s (resumeRing s n) := by
  unfold resumeRing
  split
  · rename_i h
    refine look_moves (lookable_of_work ?_)
    rcases h.2 with h | h <;> rw [h] <;> decide
  · exact .refl

/-- An access to the control port, which an asserted reset pin leaves unanswered. -/
theorem portAccess_moves {f : State → State} {s : State} (h : s.engine.resetAsserted = false → Moves s (f s)) :
    Moves s (portAccess f s) := by
  unfold portAccess
  split
  · exact .refl
  · rename_i hr
    exact h (Bool.not_eq_true _ ▸ hr)

theorem beginFormat_moves {s : State} (hr : s.engine.resetAsserted = false) : Moves s (beginFormat s) := by
  unfold beginFormat
  split
  · rename_i h
    exact Move.moves (.beginInit h hr)
  · exact .refl

theorem beginKeep_moves {s : State} (hr : s.engine.resetAsserted = false) : Moves s (beginKeep s) := by
  unfold beginKeep
  split
  · rename_i h
    split
    · exact Move.moves (.beginInit h hr)
    · have he : ({ s with engine.lastInit := .unformatted } : State) =
          { s with engine := { s.engine with state := .stopped, lastInit := .unformatted } } := by rw [← h]
      rw [he]
      exact (Move.moves (.failInit (by rw [h]; decide))).trans (raiseEvent_moves _ _)
  · exact .refl

theorem readSetup_moves {s : State} {kind : InitKind} (h : s.engine.state = .initializing kind) :
    Moves s (readSetup s kind) := by
  unfold readSetup
  obtain ⟨m, l, hb⟩ := busRead_onBus s s.port.setupAddress.toNat Config.setupBytes
  generalize busRead s s.port.setupAddress.toNat Config.setupBytes = p at hb
  obtain ⟨v, u⟩ := p
  have hu : u.engine.state = .initializing kind := by rw [hb.engine]; exact h
  refine hb.moves.trans ?_
  match v with
  | none => exact (Move.moves (.failInit (by rw [hu]; exact fun h => nomatch h))).trans (raiseEvent_moves _ _)
  | some block => exact Move.moves (.init hu)

theorem OnBus.bulk {s t : State} {m : Table Byte} {l : List BusAnswer} (h : OnBus s t m l) : t.bulk = s.bulk := by
  obtain ⟨rfl, -⟩ := h
  rfl

theorem look_bulk (s : State) (n : Nat) : (look s n).bulk = s.bulk := by
  unfold look
  dsimp only
  obtain ⟨m, l, hb⟩ := busOwn_onBus s (slotAddress (ringAt s n).request (ringAt s n).head)
  generalize busOwn s (slotAddress (ringAt s n).request (ringAt s n).head) = p at hb
  obtain ⟨v, u⟩ := p
  match v with
  | none => exact hb.bulk
  | some false => exact hb.bulk
  | some true =>
    dsimp only
    split
    · exact hb.bulk
    · obtain ⟨m', l', hb'⟩ := busOwn_onBus u (slotAddress (ringAt s n).response (ringAt s n).responseIndex)
      generalize busOwn u (slotAddress (ringAt s n).response (ringAt s n).responseIndex) = p' at hb'
      obtain ⟨v', u'⟩ := p'
      match v' with
      | none => exact hb'.bulk.trans hb.bulk
      | some _ => exact hb'.bulk.trans hb.bulk

theorem afterReserved_bulk (s : State) (written : Bool) : (afterReserved s written).bulk = s.bulk := by
  unfold afterReserved
  dsimp only
  split
  · split
    · rw [look_bulk, raiseEvent_bulk]
    · rfl
  · split <;> rfl

theorem endBulk_bulk (s : State) (b : BulkLoad) (o : OutcomeCode) : (endBulk s b o).bulk = none := by
  unfold endBulk
  split
  · rfl
  · exact afterReserved_bulk _ _

theorem stopBulk_moves (s : State) : Moves s (stopBulk s) ∧ (stopBulk s).bulk = none := by
  unfold stopBulk
  cases hb : s.bulk with
  | none => exact ⟨.refl, hb⟩
  | some b => exact ⟨endBulk_moves s s.bulk b .stopped, endBulk_bulk s b .stopped⟩

theorem completeStop_moves (s : State) : Moves s (completeStop s) :=
  (stopBulk_moves s).1.trans (haltEngine_moves (stopBulk_moves s).2)

theorem engineCommand_moves {s : State} (hr : s.engine.resetAsserted = false) (value : BitVec 16) :
    Moves s (engineCommand s value) := by
  unfold engineCommand
  split
  · exact beginFormat_moves hr
  · exact beginKeep_moves hr
  · exact stopEngine_moves s
  · exact .refl

theorem ringCommand_moves (s : State) (value : BitVec 16) : Moves s (ringCommand s value) := by
  unfold ringCommand
  dsimp only
  split
  · exact startRing_moves s _
  · exact kickRing_moves s _
  · exact resumeRing_moves s _
  · exact stopRing_moves s _
  · exact .refl

theorem writeControlWord_moves {s : State} (hr : s.engine.resetAsserted = false) (value : BitVec 16) :
    Moves s (writeControlWord s value) := by
  unfold writeControlWord writeAddressLow writeAddressHigh
  split
  · exact engineCommand_moves hr value
  · split
    · exact Move.moves .port
    · exact .refl
  · split
    · exact Move.moves .port
    · exact .refl
  · exact ringCommand_moves s value
  · exact Move.moves .port
  · exact Move.moves .port
  · exact .refl

/-! ## The clock (R142, R143) -/

theorem tick_moves (s : State) : Moves s { s with store.timer.clock := ticked s.store.timer.clock } := by
  refine Move.moves (.records (Edit.clock (k := s.store.timer.captured) (.inr fun t ht => ?_)).edits (.inr fun h => ?_))
  · cases hc : s.store.timer.clock with
    | none => rw [hc] at ht; cases ht
    | some t' =>
      rw [hc] at ht
      cases ht
      exact Nat.min_le_right _ _
  · rw [h]
    rfl

end Sys2Proof.Proofs
end

section
/-! PROOF. The tariff that TARIFF_LOAD installs is one that the checks and the clamps let through (R72 to R78). -/

namespace Sys2Proof.Proofs

open Sys2Proof Sys2Proof.Machine Sys2Proof.Laws

-- One thread: the whole text is compiled in one process, whose threads the check limits.
set_option Elab.async false

/-! ## The tariff that a block gives (R77, R78) -/

theorem clampNat_mem {lo hi : Nat} (h : lo ≤ hi) (n : Nat) : lo ≤ clampNat lo hi n ∧ clampNat lo hi n ≤ hi := by
  unfold clampNat
  omega

theorem clampInt_mem {lo hi : Int} (h : lo ≤ hi) (i : Int) : lo ≤ clampInt lo hi i ∧ clampInt lo hi i ≤ hi := by
  unfold clampInt
  omega

theorem clampClass_sound (block k : Nat) : ClassSound (clampClass (blockClass block k)) where
  hold := clampInt_mem (by decide) _
  releaseMin := clampInt_mem (by decide) _
  freeMinutes := Nat.le_of_lt_succ (field_lt block (18 * k + 8) 2)
  dailyCap := (clampNat_mem (Nat.zero_le _) _).2
  floor := clampInt_mem (by decide) _

/-- R74: a knot stands before another on a curve. -/
def Rises (k l : Knot) : Prop := k.pos < l.pos ∧ k.value ≤ l.value

theorem Rises.trans {k l m : Knot} (h : Rises k l) (h' : Rises l m) : Rises k m :=
  ⟨Nat.lt_trans h.1 h'.1, Nat.le_trans h.2 h'.2⟩

/-- R77 checks 4 and 5: positions rise and values do not fall. -/
theorem curve_rising {c : List Knot} (ho : goodOrder c = true) (hv : goodValues c = true) : c.Pairwise Rises := by
  induction c with
  | nil => exact .nil
  | cons k c ih =>
    cases c with
    | nil => exact List.pairwise_singleton Rises k
    | cons l c =>
      simp only [goodOrder, goodValues, Bool.and_eq_true, decide_eq_true_eq] at ho hv
      have hrest := ih ho.2 hv.2
      have hkl : Rises k l := ⟨ho.1, hv.1.2⟩
      refine .cons (fun m hm => ?_) hrest
      rcases List.mem_cons.mp hm with rfl | hm
      · exact hkl
      · exact hkl.trans (List.rel_of_pairwise_cons hrest hm)

theorem curve_values {c : List Knot} (hv : goodValues c = true) : ∀ k ∈ c, k.value ≤ Config.fareMax := by
  induction c with
  | nil => exact fun _ h => nomatch h
  | cons k c ih =>
    cases c with
    | nil => simpa [goodValues] using hv
    | cons l c =>
      simp only [goodValues, Bool.and_eq_true, decide_eq_true_eq] at hv
      exact List.forall_mem_cons.mpr ⟨hv.1.1, ih hv.2⟩

/-- R77 checks 2 to 5 on a curve of a block. -/
theorem blockCurve_sound {block at_ count : Nat} (hc : goodCount (blockCurve block at_ count) = true)
    (hf : goodFirst (blockCurve block at_ count) = true) (ho : goodOrder (blockCurve block at_ count) = true)
    (hv : goodValues (blockCurve block at_ count) = true) : CurveSound (blockCurve block at_ count) where
  count := by simpa [goodCount] using hc
  first := by
    unfold goodFirst at hf
    split at hf
    · cases hf
    · rename_i k rest he
      exact ⟨k.value, rest, by rw [he, ← beq_iff_eq.mp hf]⟩
  rising := curve_rising ho hv
  ranges := fun k hk => by
    refine ⟨?_, curve_values hv k hk⟩
    obtain ⟨i, -, rfl⟩ := List.mem_map.mp hk
    exact Nat.le_of_lt_succ (field_lt block (at_ + 6 * i) 2)

theorem curveCheck_none {t : Tariff} {good : List Knot → Bool} (h : curveCheck t good = none) :
    good t.memberCurve = true ∧ good t.casualCurve = true := by
  unfold curveCheck at h
  split at h
  · split at h
    · exact ⟨‹_›, ‹_›⟩
    · cases h
  · cases h

/-- R77: a block that no check refuses passes each of them. -/
theorem tariffRefusal_none {checking : Bool} {block : Nat} (h : tariffRefusal checking block = none) :
    (∀ good ∈ [goodCount, goodFirst, goodOrder, goodValues],
      good (blockMemberCurve block) = true ∧ good (blockCasualCurve block) = true) ∧
      goodGrid (blockGrid block) = true ∧
      goodWindows (blockGrid block) (blockWindowCount block) (blockWindows block) = true := by
  unfold tariffRefusal at h
  dsimp only at h
  split at h
  · cases h
  split at h
  · cases h
  rename_i h1
  split at h
  · cases h
  rename_i h2
  split at h
  · cases h
  rename_i h3
  split at h
  · cases h
  rename_i h4
  split at h
  · cases h
  rename_i h5
  split at h
  · cases h
  rename_i h6
  refine ⟨?_, Bool.not_eq_false _ ▸ h5, Bool.not_eq_false _ ▸ h6⟩
  simp only [List.mem_cons, List.not_mem_nil, or_false, forall_eq_or_imp, forall_eq]
  exact ⟨curveCheck_none h1, curveCheck_none h2, curveCheck_none h3, curveCheck_none h4⟩

/-- R72 to R78: a block that passes the checks gives, clamped, a sound tariff. -/
theorem clampTariff_sound {checking : Bool} {block : Nat} (h : tariffRefusal checking block = none) :
    TariffSound (clampTariff (blockTariff block)) := by
  obtain ⟨hcurve, hgrid, hwin⟩ := tariffRefusal_none h
  simp only [List.mem_cons, List.not_mem_nil, or_false, forall_eq_or_imp, forall_eq] at hcurve
  obtain ⟨h1, h2, h3, h4⟩ := hcurve
  simp only [goodWindows, Bool.and_eq_true, decide_eq_true_eq, List.all_eq_true] at hwin
  exact
  { classes := ⟨clampClass_sound _ _, clampClass_sound _ _, clampClass_sound _ _, clampClass_sound _ _⟩
    curves := ⟨blockCurve_sound h1.1 h2.1 h3.1 h4.1, blockCurve_sound h1.2 h2.2 h3.2 h4.2⟩
    grid := by
      change blockGrid block ∈ [1, 5, 10, 15]
      simpa [goodGrid, or_assoc] using hgrid
    windows := by
      constructor
      · change ((blockWindows block).map clampWindow).length ≤ 4
        simpa [blockWindows] using hwin.1
      · intro w hw
        obtain ⟨v, hv, rfl⟩ := List.mem_map.mp hw
        exact ⟨(hwin.2 v hv).1, (hwin.2 v hv).2, clampNat_mem (by decide) _⟩
    grace := (clampNat_mem (Nat.zero_le _) _).2
    billingStep := clampNat_mem (by decide) _
    waiverWindow := (clampNat_mem (Nat.zero_le _) _).2
    lostFee := clampInt_mem (by decide) _ }

theorem installTariff_edits (checking : Bool) (st : Store) (block : Nat) :
    Edits st (installTariff checking st block).1 := by
  unfold installTariff
  split
  · exact .refl
  · rename_i h
    exact Edit.edits (.tariff (clampTariff_sound h))

end Sys2Proof.Proofs
end

section
/-! PROOF. Every step is a sequence of moves. -/

namespace Sys2Proof.Proofs

open Sys2Proof Sys2Proof.Machine Sys2Proof.Laws

-- One thread: the whole text is compiled in one process, whose threads the check limits.
set_option Elab.async false

/-- What carrying out a command does where it does not fault. -/
def Moved (s : State) (o : Host.Outcome State Fault Refusal) : Prop := ∀ t, o = .next t → Moves s t

theorem moved {s t : State} (h : Moves s t) : Moved s (.next t) := fun _ ht => by cases ht; exact h

theorem moved_request {rule : State → Request → Handled} (hr : RuleMoves rule) (code : Byte) (q : Request) (s : State) :
    Moved s (.next (grantRequest code rule q s)) := moved (grantRequest_moves hr code q s)

theorem moved_work {rule : Work → Request → Reply × Work} (h : ∀ w q, Edits w.store (rule w q).2.store) (code : Byte)
    (q : Request) (s : State) : Moved s (.next (grantRequest code (workRule rule) q s)) :=
  moved_request (workRule_moves h) code q s

theorem moved_query {rule : Work → Request → Reply × Work} (h : ∀ w q, (rule w q).2 = w) (code : Byte)
    (q : Request) (s : State) : Moved s (.next (grantRequest code (workRule rule) q s)) :=
  moved_request (workRule_moves_of_same h) code q s

/-- A grant to the Timer Unit is made of a RUNNING engine alone. -/
theorem running_of_grantedHead {s : State} {what : Deadline} (h : grantedHead s = some what) :
    s.engine.state = .running := by
  unfold grantedHead at h
  split at h
  · rename_i hc
    exact (arbiterChoice_some hc).1
  · cases h

theorem moved_expiry {s : State} {what : Deadline} (h : grantedHead s = some what) (hub : HubInput)
    {rule : Work → Work} (hr : ∀ w, w.store = headTaken s.store → Edits w.store (rule w).store) :
    Moved s (.next (grantExpiry hub rule s)) := moved (grantExpiry_moves (running_of_grantedHead h) hub hr)

theorem moved_fault (s : State) (f : Fault) : Moved s (.fault f) := fun _ h => nomatch h

/-! ## The expiries (R148, R150) -/

theorem releaseWindowExpiry_moved (hub : HubInput) (s : State) : Moved s (execReleaseWindowExpiry hub s) := by
  unfold execReleaseWindowExpiry
  split
  · rename_i h
    split
    · exact moved_expiry h hub (fun w _ => lapseRelease_edits w _ _)
    · exact moved_fault s _
  · exact moved .refl

theorem overdueExpiry_moved (hub : HubInput) (s : State) : Moved s (execOverdueExpiry hub s) := by
  unfold execOverdueExpiry
  split
  · rename_i h
    split
    · exact moved_expiry h hub (fun w _ => makeOverdue_edits w _ _)
    · exact moved_fault s _
  · exact moved .refl

theorem lostExpiry_moved (hub : HubInput) (s : State) : Moved s (execLostExpiry hub s) := by
  unfold execLostExpiry
  split
  · rename_i h
    split
    · split
      · rename_i hc
        exact moved_expiry h hub (fun w hw => loseHire_edits w _ _ (by rw [hw]; exact hc))
      · exact moved_fault s _
    · exact moved_fault s _
  · exact moved .refl

theorem holdExpiry_moved (hub : HubInput) (s : State) : Moved s (execHoldExpiry hub s) := by
  unfold execHoldExpiry
  split
  · rename_i h
    split
    · exact moved_expiry h hub (fun w _ => expireHold_edits w _ _ _)
    · exact moved_fault s _
  · exact moved .refl

theorem claimExpiry_moved (hub : HubInput) (s : State) : Moved s (execClaimExpiry hub s) := by
  unfold execClaimExpiry
  split
  · rename_i h
    split
    · exact moved_expiry h hub (fun w _ => lapseClaim_edits w _ _)
    · exact moved_fault s _
  · exact moved .refl

theorem loadWindowExpiry_moved (hub : HubInput) (s : State) : Moved s (execLoadWindowExpiry hub s) := by
  unfold execLoadWindowExpiry
  split
  · rename_i h
    split
    · exact moved_expiry h hub (fun w _ => lapseLoad_edits w _ _ _)
    · exact moved_fault s _
  · exact moved .refl

theorem trendEpoch_moved (hub : HubInput) (s : State) : Moved s (execTrendEpoch hub s) := by
  unfold execTrendEpoch
  split
  · rename_i h
    exact moved_expiry h hub (fun w _ => decay_edits w)
  · exact moved .refl

/-! ## The other commands -/

theorem bulkCardImage_moved (hub : HubInput) (s : State) : Moved s (execBulkCardImage hub s) := by
  unfold execBulkCardImage
  split
  · exact moved .refl
  · rename_i b hb
    split
    · rename_i hg
      have hm := (beginCommand_moves s hub).trans (chargeGrant_moves (beginCommand s hub) .bulk)
      obtain ⟨p, hp⟩ := still_beginCharge s hub .bulk
      rw [hp] at hm ⊢
      exact moved ((hm.trans (bulkImage_moves hb (arbiterChoice_some hg).1)).trans (endCommand_moves _))
    · exact moved .refl

theorem initCompletion_moved (hub : HubInput) (s : State) : Moved s (execInitCompletion hub s) := by
  unfold execInitCompletion
  split
  · rename_i h
    exact moved (((beginCommand_moves s hub).trans (readSetup_moves h)).trans (endCommand_moves _))
  · exact moved .refl
  · exact moved .refl

theorem stopCompletion_moved (hub : HubInput) (s : State) : Moved s (execStopCompletion hub s) := by
  unfold execStopCompletion
  split
  · exact moved (((beginCommand_moves s hub).trans (completeStop_moves _)).trans (endCommand_moves _))
  · exact moved .refl

/-- A command of the control port or of a ring that looks at hub memory. -/
theorem moved_hub {f : State → State} (hf : ∀ u, Moves u (f u)) (hub : HubInput) (s : State) :
    Moved s (.next (endCommand (f (beginCommand s hub)))) :=
  moved (((beginCommand_moves s hub).trans (hf _)).trans (endCommand_moves _))

theorem readClockLow_moves (s : State) : Moves s (readClockLow s) :=
  (Move.moves (.records (Edit.clock (k := clockHigh s) (.inl rfl)).edits (.inr id))).andThen .port

/-- Every command that does not fault changes the part by moves. -/
theorem exec_moved (c : Instr) (s : State) : Moved s (exec c s) := by
  cases c with
  | bikeArrived q => exact moved_work bikeArrived_edits _ q s
  | bikeRemoved q => exact moved_work bikeRemoved_edits _ q s
  | dockStatus q => exact moved_work dockStatus_edits _ q s
  | cardCheck q => exact moved_query cardCheck_store _ q s
  | hireRelease q => exact moved_work hireRelease_edits _ q s
  | hireQuery q => exact moved_query hireQuery_store _ q s
  | cancelReservation q => exact moved_work cancelReservation_edits _ q s
  | vanShiftStart q => exact moved_work vanShiftStart_edits _ q s
  | vanShiftEnd q => exact moved_work vanShiftEnd_edits _ q s
  | vanSuggest q => exact moved_work vanSuggest_edits _ q s
  | vanClaim q => exact moved_work vanClaim_edits _ q s
  | vanReleaseClaim q => exact moved_work vanReleaseClaim_edits _ q s
  | vanLoad q => exact moved_work vanLoad_edits _ q s
  | workshopDrop q => exact moved_work workshopDrop_edits _ q s
  | workshopPickup q => exact moved_work workshopPickup_edits _ q s
  | fieldClear q => exact moved_work fieldClear_edits _ q s
  | crewFlag q => exact moved_work crewFlag_edits _ q s
  | vanQuery q => exact moved_work vanQuery_edits _ q s
  | timeSet q => exact moved_work timeSet_edits _ q s
  | tariffLoad q => exact moved_request (tariffLoad_moves installTariff_edits) _ q s
  | stationDefine q => exact moved_work stationDefine_edits _ q s
  | vanDefine q => exact moved_work vanDefine_edits _ q s
  | bikeCommission q => exact moved_work bikeCommission_edits _ q s
  | bikeDecommission q => exact moved_work bikeDecommission_edits _ q s
  | dockCommission q => exact moved_work dockCommission_edits _ q s
  | cardPut q => exact moved_work cardPut_edits _ q s
  | cardCredit q => exact moved_work cardCredit_edits _ q s
  | cardStatus q => exact moved_work cardStatus_edits _ q s
  | cardRetire q => exact moved_work cardRetire_edits _ q s
  | cardQuery q => exact moved_query cardQuery_store _ q s
  | bulkCardLoad q => exact moved_request bulkCardLoad_moves _ q s
  | reserve q => exact moved_work reserve_edits _ q s
  | ticketClose q => exact moved_work ticketClose_edits _ q s
  | dockRestore q => exact moved_work dockRestore_edits _ q s
  | ticketQuery q => exact moved_query ticketQuery_store _ q s
  | bikeQuery q => exact moved_query bikeQuery_store _ q s
  | stationQuery q => exact moved_query stationQuery_store _ q s
  | grantWithoutWork code q =>
    change Moved s (execGrantWithoutWork code q s)
    unfold execGrantWithoutWork
    split
    · exact moved .refl
    · exact moved_request noRule_moves code q s
  | releaseWindowExpiry hub => exact releaseWindowExpiry_moved hub s
  | overdueExpiry hub => exact overdueExpiry_moved hub s
  | lostExpiry hub => exact lostExpiry_moved hub s
  | holdExpiry hub => exact holdExpiry_moved hub s
  | loadWindowExpiry hub => exact loadWindowExpiry_moved hub s
  | claimExpiry hub => exact claimExpiry_moved hub s
  | trendEpoch hub => exact trendEpoch_moved hub s
  | bulkCardImage hub => exact bulkCardImage_moved hub s
  | tick => exact moved (tick_moves s)
  | resetPin => exact moved (Move.moves .reset)
  | initFormat => exact moved (portAccess_moves beginFormat_moves)
  | initKeep => exact moved (portAccess_moves beginKeep_moves)
  | initCompletion hub => exact initCompletion_moved hub s
  | engineStop => exact moved (stopEngine_moves s)
  | stopCompletion hub => exact stopCompletion_moved hub s
  | ringStart ring hub => exact moved_hub (startRing_moves · ring) hub s
  | kick ring hub => exact moved_hub (kickRing_moves · ring) hub s
  | resume ring hub => exact moved_hub (resumeRing_moves · ring) hub s
  | ringStop ring => exact moved ((stopRing_moves s ring).trans (settleCounts_moves _))
  | indexPortWrite value => exact moved (portAccess_moves fun _ => Move.moves .port)
  | clockLowRead => exact moved (portAccess_moves fun _ => readClockLow_moves s)
  | eventClear value => exact moved (portAccess_moves fun _ => Move.moves .port)
  | eventEnableWrite value => exact moved (portAccess_moves fun _ => Move.moves .port)
  | controlWordWrite value hub =>
    exact moved_hub (fun u => portAccess_moves (fun hr => writeControlWord_moves hr value)) hub s
  | unknownRequestCode code q =>
    change Moved s (execUnknownRequestCode code q s)
    unfold execUnknownRequestCode
    split
    · exact moved_request noRule_moves code q s
    · exact moved .refl

/-- A step is a sequence of moves. -/
theorem step_moves {s t : State} (h : step s = .next t) : Moves s t := by
  unfold step at h
  split at h
  · cases h
    exact .refl
  · exact (Move.moves .queue).trans (exec_moved _ _ _ h)

/-- What each kind of move keeps, a step keeps. -/
theorem step_keeps {P : State → Prop} (hp : ∀ a b, Move a b → P a → P b) {s t : State} (hs : P s)
    (h : step s = .next t) : P t := (step_moves h).keeps hp hs

end Sys2Proof.Proofs
end

section
/-! PROOF. The deadline list keeps its order (O49, O3), and the invariants over the clock, the trend and the tariff
that every step keeps (O4, O5, O14): an invariant of the records is kept by every move when every edit, the
formatting of the tables and the reset keep it. -/

namespace Sys2Proof.Proofs

open Sys2Proof Sys2Proof.Machine Sys2Proof.Laws

-- One thread: the whole text is compiled in one process, whose threads the check limits.
set_option Elab.async false

/-! ## Invariants of the records -/

/-- What every edit, INIT_FORMAT and a reset keep of the records, a step keeps. -/
theorem step_keeps_store {P : Store → Prop} (he : ∀ a b, Edit a b → P a → P b) (hf : ∀ st, P st → P (formatStore st))
    (hc : ∀ st, P st → P (clockCleared st)) {s t : State} (hs : P s.store) (h : step s = .next t) : P t.store := by
  refine step_keeps (P := fun s => P s.store) (fun a b hm ha => ?_) hs h
  cases hm with
  | records h => exact h.keeps he ha
  | reset => exact hc _ ha
  | @init kind block h =>
    cases kind with
    | format => exact hf _ ha
    | keep => exact ha
  | _ => exact ha

theorem removeCard_cards (st : Store) (k : Nat) : removeCard st k = { st with cards := (removeCard st k).cards } := by
  unfold removeCard
  split <;> rfl

theorem createCard_cards {st st' : Store} {c : Card} {k : Nat} (h : createCard st c = some (k, st')) :
    st' = { st with cards := st'.cards } := by
  unfold createCard at h
  split at h
  · cases h
  · cases h
    rfl

/-! ## The order of the deadline list (R147) -/

/-- R147: an entry due no later than another. -/
def DueBefore (x y : Entry) : Prop := x.due ≤ y.due

theorem ascending_cons {e x : Entry} {t : List Entry} :
    ascending (e :: x :: t) = true ↔ e.due ≤ x.due ∧ ascending (x :: t) = true := by
  simp [ascending]

theorem ascending_iff (l : List Entry) : ascending l = true ↔ l.Pairwise DueBefore := by
  induction l with
  | nil => simp [ascending]
  | cons e l ih =>
    cases l with
    | nil => simp [ascending]
    | cons x t =>
      rw [ascending_cons, ih, List.pairwise_cons (a := e)]
      refine and_congr_left fun hp => ⟨fun he y hy => ?_, fun h => h x List.mem_cons_self⟩
      rcases List.mem_cons.mp hy with rfl | hy
      · exact he
      · exact Nat.le_trans he ((List.pairwise_cons.mp hp).1 y hy)

/-- R147: the entry stands behind every entry due no later and ahead of every entry due later. -/
theorem insertEntry_eq (e : Entry) {l : List Entry} (h : ascending l = true) :
    insertEntry e l =
      l.filter (fun x => decide (x.due ≤ e.due)) ++ e :: l.filter (fun x => decide (e.due < x.due)) := by
  rw [ascending_iff] at h
  induction l with
  | nil => rfl
  | cons x t ih =>
    obtain ⟨hx, ht⟩ := List.pairwise_cons.mp h
    by_cases hle : x.due ≤ e.due
    · simp [insertEntry, hle, ih ht, Nat.not_lt.mpr hle]
    · have hlate : ∀ y ∈ t, e.due < y.due := fun y hy => Nat.lt_of_lt_of_le (Nat.not_le.mp hle) (hx y hy)
      rw [insertEntry, if_neg hle, List.filter_cons_of_neg (by simpa using hle),
        List.filter_eq_nil_iff.mpr (fun y hy => by simpa using hlate y hy),
        List.filter_eq_self.mpr (fun y hy => ?_)]
      · rfl
      · rcases List.mem_cons.mp hy with rfl | hy
        · simpa using hle
        · simpa using hlate y hy

theorem ascending_insertEntry (e : Entry) {l : List Entry} (h : ascending l = true) :
    ascending (insertEntry e l) = true := by
  rw [insertEntry_eq e h, ascending_iff, List.pairwise_append]
  rw [ascending_iff] at h
  refine ⟨h.filter _, List.pairwise_cons.mpr ⟨fun y hy => ?_, h.filter _⟩, fun x hx y hy => ?_⟩
  · exact Nat.le_of_lt (of_decide_eq_true (List.mem_filter.mp hy).2)
  · have hxe : x.due ≤ e.due := of_decide_eq_true (List.mem_filter.mp hx).2
    rcases List.mem_cons.mp hy with rfl | hy
    · exact hxe
    · exact Nat.le_trans hxe (Nat.le_of_lt (of_decide_eq_true (List.mem_filter.mp hy).2))

theorem ascending_dropEntry (what : Deadline) {l : List Entry} (h : ascending l = true) :
    ascending (dropEntry what l) = true := by
  rw [ascending_iff] at h ⊢
  exact h.filter _

theorem reownHold_due (old new : Nat) (l : List Entry) : (reownHold old new l).map Entry.due = l.map Entry.due := by
  unfold reownHold
  rw [List.map_map]
  refine List.map_congr_left fun e _ => ?_
  change (if e.what = .holdExpiry old then { e with what := .holdExpiry new } else e).due = e.due
  split <;> rfl

theorem ascending_reownHold (old new : Nat) {l : List Entry} (h : ascending l = true) :
    ascending (reownHold old new l) = true := by
  have hdue : ∀ l : List Entry, (l.map Entry.due).Pairwise (· ≤ ·) ↔ ascending l = true := fun l =>
    List.pairwise_map.trans (ascending_iff l).symm
  rw [← hdue] at h ⊢
  rwa [reownHold_due]

theorem ascending_tail {l : List Entry} (h : ascending l = true) : ascending l.tail = true := by
  rw [ascending_iff] at h ⊢
  exact h.tail

/-- Settles O49. -/
theorem deadlinesKeepTheirOrder : Obligations.DeadlinesKeepTheirOrder := by
  refine ⟨fun e l h => insertEntry_eq e h, fun what l h => ⟨ascending_dropEntry what h, List.filter_sublist, fun e => ?_⟩,
    fun old new l => ⟨reownHold_due old new l, fun j => ?_⟩⟩
  · simp [dropEntry]
  · simp only [reownHold, List.getElem?_map, Option.map_map]
    refine congrArg (fun f => Option.map f l[j]?) (funext fun e => ?_)
    simp only [Function.comp_apply]
    split <;> rfl

/-- Settles O3: every edit of the records keeps the order of the list, and INIT_FORMAT empties it. -/
theorem deadlinesStayAscending : Obligations.DeadlinesStayAscending := by
  refine fun s t => step_keeps_store (P := fun st => ascending st.timer.deadlines = true) (fun a b he ha => ?_)
    (fun _ _ => rfl) (fun _ h => h)
  cases he with
  | entry => exact ascending_insertEntry _ ha
  | drop => exact ascending_dropEntry _ ha
  | reown => exact ascending_reownHold _ _ ha
  | tail => exact ascending_tail ha
  | create _ _ hc => rw [createCard_cards hc]; exact ha
  | remove => rw [removeCard_cards]; exact ha
  | _ => exact ha

/-! ## The clock and the due times (R142, R147) -/

theorem mem_insertEntry {e x : Entry} {l : List Entry} : x ∈ insertEntry e l ↔ x = e ∨ x ∈ l := by
  induction l with
  | nil => simp [insertEntry]
  | cons y t ih =>
    unfold insertEntry
    split
    · rw [List.mem_cons, ih, List.mem_cons]
      exact or_left_comm
    · exact List.mem_cons

theorem timesInRange_edit {a b : Store} (he : Edit a b) (ha : TimesInRange a.timer) : TimesInRange b.timer := by
  obtain ⟨hclock, hdue⟩ := ha
  cases he with
  | entry h => exact ⟨hclock, fun e he => (mem_insertEntry.mp he).elim (fun h' => h' ▸ h) (hdue e)⟩
  | drop => exact ⟨hclock, fun e he => hdue e (List.mem_filter.mp he).1⟩
  | @reown old new =>
    refine ⟨hclock, fun e he => ?_⟩
    have hm : e.due ∈ (reownHold old new a.timer.deadlines).map Entry.due := List.mem_map_of_mem he
    rw [reownHold_due] at hm
    obtain ⟨x, hx, hxe⟩ := List.mem_map.mp hm
    exact hxe ▸ hdue x hx
  | tail => exact ⟨hclock, fun e he => hdue e (List.mem_of_mem_tail he)⟩
  | clock h => exact ⟨fun t ht => h.elim (fun hc => hclock t (hc ▸ ht)) (fun hc => hc t ht), hdue⟩
  | create _ _ hc => rw [createCard_cards hc]; exact ⟨hclock, hdue⟩
  | remove => rw [removeCard_cards]; exact ⟨hclock, hdue⟩
  | _ => exact ⟨hclock, hdue⟩

/-- Settles O5: a due time is added held at the greatest clock value, and the clock is set from four bytes or counts
up to that value. -/
theorem timesStayInRange : Obligations.TimesStayInRange := fun _ _ =>
  step_keeps_store (P := fun st => TimesInRange st.timer) (fun _ _ => timesInRange_edit)
    (fun _ h => ⟨h.1, fun _ he => (nomatch he)⟩) (fun _ h => ⟨fun _ ht => (nomatch ht), h.2⟩)

/-! ## The trend (R132, R133) -/

theorem trendAgrees_edit {a b : Store} (he : Edit a b) (ha : TrendAgrees a) : TrendAgrees b := by
  cases he with
  | @station i r h =>
    intro j
    rw [stationAt_putStation]
    split
    · exact h.trend (ha i)
    · exact ha j
  | create _ _ hc => rw [createCard_cards hc]; exact ha
  | remove => rw [removeCard_cards]; exact ha
  | _ => exact ha

theorem trendOf_formatted : TrendOf formattedStation := by
  refine ⟨?_, ?_, ?_⟩ <;> decide

/-- Settles O4: a net flow is moved within its range and its direction set with it, or both stand. -/
theorem trendStaysInAgreement : Obligations.TrendStaysInAgreement := fun _ _ =>
  step_keeps_store (fun _ _ => trendAgrees_edit) (fun _ _ _ => trendOf_formatted) (fun _ h => h)

/-! ## The tariff (R72, R77, R78) -/

theorem tariffInForceSound_edit {a b : Store} (he : Edit a b) (ha : TariffInForceSound a) : TariffInForceSound b := by
  cases he with
  | tariff h => exact fun _ => h
  | create _ _ hc => rw [createCard_cards hc]; exact ha
  | remove => rw [removeCard_cards]; exact ha
  | _ => exact ha

/-- Settles O14: a tariff comes into force through the checks and the clamps alone, and INIT_FORMAT ends it. -/
theorem tariffStaysSound : Obligations.TariffStaysSound := fun _ _ =>
  step_keeps_store (fun _ _ => tariffInForceSound_edit) (fun _ _ h => nomatch h) (fun _ h => h)

/-! ## Cards and the other records (R2, R8, R11, R28, R29, R49, R65, R92, R109) -/

theorem cardsInRange_edit {a b : Store} (he : Edit a b) (ha : CardsInRange a) : CardsInRange b := by
  obtain ⟨hcards, hfee⟩ := ha
  cases he with
  | @card k c c' hc _ hr =>
    refine ⟨fun j d hd => ?_, hfee⟩
    rw [cardAt_putCard] at hd
    split at hd
    · cases hd
      exact hr hfee (hcards k c hc)
    · exact hcards j d hd
  | create _ hr hc =>
    refine ⟨fun j d hd => ?_, by rw [createCard_cards hc]; exact hfee⟩
    unfold createCard at hc
    split at hc
    · cases hc
    · cases hc
      rw [cardAt_putChain, cardAt_putCard] at hd
      split at hd
      · cases hd
        exact hr
      · exact hcards j d hd
  | @remove k =>
    refine ⟨fun j d hd => hcards j d ?_, by rw [removeCard_cards]; exact hfee⟩
    unfold removeCard at hd
    split at hd
    · exact hd
    · rw [cardAt_putCard] at hd
      split at hd
      · cases hd
      · exact hd
  | tariff h => exact ⟨hcards, h.lostFee.1⟩
  | _ => exact ⟨hcards, hfee⟩

/-- Settles O10: a card is written with its fields in range wherever the lost fee is not negative, and a tariff in
force has one that is not. -/
theorem cardsStayInRange : Obligations.CardsStayInRange := fun _ _ =>
  step_keeps_store (fun _ _ => cardsInRange_edit) (fun _ h => ⟨fun _ _ hc => (nomatch hc), h.2⟩) (fun _ h => h)

theorem recordsInRange_edit {a b : Store} (he : Edit a b) (ha : RecordsInRange a) : RecordsInRange b := by
  cases he with
  | @bike k r h =>
    refine { ha with bikes := fun j => ?_ }
    rw [bikeAt_putBike]
    split
    · exact ⟨h.strikes.le (ha.bikes k).1, h.rides.le (ha.bikes k).2⟩
    · exact ha.bikes j
  | @dock k r h =>
    refine { ha with docks := fun j => ?_ }
    rw [dockAt_putDock]
    split
    · exact Within.le h (ha.docks k)
    · exact ha.docks j
  | @station k r h =>
    refine { ha with stations := fun j => ?_ }
    rw [stationAt_putStation]
    split
    · exact h.range (ha.stations k)
    · exact ha.stations j
  | @hire k r h =>
    refine { ha with hires := fun j => ?_ }
    rw [hireSlotAt_putHireSlot]
    split
    · exact h.le (ha.hires k)
    · exact ha.hires j
  | @ticket k r h =>
    refine { ha with tickets := fun j => ?_ }
    rw [ticketSlotAt_putTicketSlot]
    split
    · exact h.le (ha.tickets k)
    · exact ha.tickets j
  | @van k r h =>
    refine { ha with vans := fun j => ?_ }
    rw [vanAt_putVan]
    split
    · exact h.le (ha.vans k)
    · exact ha.vans j
  | held h => exact { ha with held := h ha.held }
  | create _ _ hc => rw [createCard_cards hc]; exact { ha with }
  | remove => rw [removeCard_cards]; exact { ha with }
  | _ => exact { ha with }

theorem stationInRange_formatted : StationInRange formattedStation := by
  refine ⟨?_, ?_, ?_, ?_, ?_, ?_⟩ <;> simp [formattedStation, BandInRange, ThresholdsInRange]

/-- The records of empty tables, none held. -/
theorem recordsInRange_formatted {st : Store} (h : st.fleet = ⟨[], [], [], 0⟩) (hh : st.hires = [])
    (ht : st.faults.tickets = []) (hv : st.vans = []) : RecordsInRange st where
  bikes b := by
    rw [bikeAt, h]
    exact (by decide : formattedBike.fault.strikes ≤ 15 ∧ formattedBike.rides ≤ 65535)
  docks d := by
    rw [dockAt, h]
    exact (by decide : formattedDock.fault.strikes ≤ 15)
  stations i := by
    rw [stationAt, h]
    exact stationInRange_formatted
  held := by rw [h]; decide
  hires k := by
    rw [hireSlotAt, hh]
    exact (by decide : formattedHireSlot.gen ≤ 255)
  tickets k := by
    rw [ticketSlotAt, ht]
    exact (by decide : formattedTicketSlot.gen ≤ 255)
  vans v := by
    rw [vanAt, hv]
    exact (by decide : formattedVan.capacity ≤ Config.vanCapacity)

/-- Settles O12: every record is written with its fields in range or as they stood. -/
theorem recordsStayInRange : Obligations.RecordsStayInRange := fun _ _ =>
  step_keeps_store (fun _ _ => recordsInRange_edit) (fun _ _ => recordsInRange_formatted rfl rfl rfl rfl) (fun _ h => { h with })

end Sys2Proof.Proofs
end

section
/-! PROOF. The invariants over the whole part that every step keeps: the one form of every table (O6), the pass-over
counts (O7), rest (O8), the load (O9), the settings and the rings (O13); and the part right after reset (O2). -/

namespace Sys2Proof.Proofs

open Sys2Proof Sys2Proof.Machine Sys2Proof.Laws

-- One thread: the whole text is compiled in one process, whose threads the check limits.
set_option Elab.async false

/-- Settles O1. -/
theorem stepTakesFront : Obligations.StepTakesFront := by
  intro c rest s h
  unfold step
  rw [h]

/-! ## The one form of every table (log entries 2 and 3) -/

/-- Every record table is in its one form. -/
structure StoreCanonical (st : Store) : Prop where
  bikes : canonical formattedBike st.fleet.bikes = true
  docks : canonical formattedDock st.fleet.docks = true
  stations : canonical formattedStation st.fleet.stations = true
  cards : canonical none st.cards.cards = true
  chains : canonical [] st.cards.chains = true
  hires : canonical formattedHireSlot st.hires = true
  tickets : canonical formattedTicketSlot st.faults.tickets = true
  vans : canonical formattedVan st.vans = true

theorem canonical_iff (s : State) :
    Canonical s ↔ Memory.wf s.hub.mem = true ∧ StoreCanonical s.store ∧
      canonical formattedRing s.rings.rings = true ∧ canonical 0 s.passOver = true :=
  ⟨fun ⟨hm, h1, h2, h3, h4, h5, h6, h7, h8, hr, hp⟩ => ⟨hm, ⟨h1, h2, h3, h4, h5, h6, h7, h8⟩, hr, hp⟩,
    fun ⟨hm, h, hr, hp⟩ => ⟨hm, h.1, h.2, h.3, h.4, h.5, h.6, h.7, h.8, hr, hp⟩⟩

theorem putCard_canonical {st : Store} {k : Nat} {c : Option Card} (h : canonical none st.cards.cards = true) :
    canonical none (putCard st k c).cards.cards = true := canonical_writeAt _ _ k c h

theorem storeCanonical_edit {a b : Store} (he : Edit a b) (ha : StoreCanonical a) : StoreCanonical b := by
  cases he with
  | bike => exact { ha with bikes := canonical_writeAt _ _ _ _ ha.bikes }
  | dock => exact { ha with docks := canonical_writeAt _ _ _ _ ha.docks }
  | station => exact { ha with stations := canonical_writeAt _ _ _ _ ha.stations }
  | card => exact { ha with cards := putCard_canonical ha.cards }
  | hire => exact { ha with hires := canonical_writeAt _ _ _ _ ha.hires }
  | ticket => exact { ha with tickets := canonical_writeAt _ _ _ _ ha.tickets }
  | van => exact { ha with vans := canonical_writeAt _ _ _ _ ha.vans }
  | create _ _ hc =>
    unfold createCard at hc
    split at hc
    · cases hc
    · cases hc
      exact { ha with
        cards := canonical_writeAt none a.cards.cards _ (some _) ha.cards
        chains := canonical_writeAt _ _ _ _ ha.chains }
  | remove =>
    unfold removeCard
    split
    · exact ha
    · exact { ha with
        cards := putCard_canonical ha.cards
        chains := canonical_writeAt _ _ _ _ ha.chains }
  | _ => exact { ha with }

theorem resetRings_canonical (s : State) : canonical formattedRing (resetRings s) = true := by
  unfold resetRings
  generalize List.range requestRings = l
  suffices h : ∀ t, canonical formattedRing t = true →
      canonical formattedRing (l.foldl (fun t n => writeAt formattedRing t n (resetRing (ringAt s n))) t) = true from
    h [] rfl
  induction l with
  | nil => exact fun _ h => h
  | cons n l ih => exact fun t h => ih _ (canonical_writeAt _ _ _ _ h)

theorem canonical_move {a b : State} (hm : Move a b) (ha : Canonical a) : Canonical b := by
  rw [canonical_iff] at ha ⊢
  obtain ⟨hmem, hst, hring, hcount⟩ := ha
  cases hm with
  | hub h => exact ⟨h hmem, hst, hring, hcount⟩
  | records h => exact ⟨hmem, h.keeps (fun _ _ => storeCanonical_edit) hst, hring, hcount⟩
  | ring => exact ⟨hmem, hst, canonical_writeAt _ _ _ _ hring, hcount⟩
  | counts h => exact ⟨hmem, hst, hring, h.form hcount⟩
  | @init kind block h =>
    cases kind with
    | format => exact ⟨hmem, ⟨rfl, rfl, rfl, rfl, rfl, rfl, rfl, rfl⟩, hring, hcount⟩
    | keep => exact ⟨hmem, hst, hring, hcount⟩
  | halt => exact ⟨hmem, hst, hring, rfl⟩
  | reset => exact ⟨hmem, { hst with }, resetRings_canonical a, rfl⟩
  | _ => exact ⟨hmem, hst, hring, hcount⟩

/-- Settles O6: every table is written by `writeAt`, which keeps its one form. -/
theorem tablesStayCanonical : Obligations.TablesStayCanonical := fun _ _ => step_keeps (fun _ _ => canonical_move)

/-! ## The pass-over counts (R168) -/

theorem countsInRange_move {a b : State} (hm : Move a b) (ha : CountsInRange a) : CountsInRange b := by
  cases hm with
  | counts h => exact h.range ha
  | halt => exact fun _ => Nat.zero_le _
  | reset => exact fun _ => Nat.zero_le _
  | _ => exact ha

/-- Settles O7. -/
theorem countsStayInRange : Obligations.CountsStayInRange := fun _ _ => step_keeps (fun _ _ => countsInRange_move)

/-! ## The part at rest (R173, R178, R179) -/

theorem restsUnlessRunning_move {a b : State} (hm : Move a b) (ha : RestsUnlessRunning a) : RestsUnlessRunning b := by
  obtain ⟨hrest, hpin⟩ := ha
  cases hm with
  | records _ hc =>
    refine ⟨hrest, fun hr => ⟨(hpin hr).1, ?_⟩⟩
    rcases hc with hrun | hclock
    · rw [(hpin hr).1] at hrun
      cases hrun
    · exact hclock (hpin hr).2
  | @ring n r h =>
    refine ⟨fun hs => ?_, hpin⟩
    obtain ⟨hp, hb, hoff⟩ := hrest hs
    refine ⟨hp, hb, fun k hk => ?_⟩
    rw [ringAt_setRing]
    split
    · rename_i hkn
      cases h with
      | work hwork => exact absurd (hoff n (hkn ▸ hk)) hwork
      | start _ hrun => exact absurd hrun hs
      | off h => exact h
    · exact hoff k hk
  | stopPending h => exact ⟨fun hs => absurd h hs, hpin⟩
  | takeLoad h => exact ⟨fun hs => absurd h hs, hpin⟩
  | load _ h => exact ⟨fun hs => absurd h hs, hpin⟩
  | unload => exact ⟨fun hs => ⟨(hrest hs).1, rfl, (hrest hs).2.2⟩, hpin⟩
  | beginInit h hr =>
    exact ⟨fun _ => hrest (by rw [h]; decide), fun hp => absurd hp (by rw [hr]; decide)⟩
  | failInit h => exact ⟨fun _ => hrest h, fun hp => ⟨rfl, (hpin hp).2⟩⟩
  | init h =>
    refine ⟨fun hs => absurd rfl hs, fun hp => ?_⟩
    have hstop := (hpin hp).1
    rw [h] at hstop
    cases hstop
  | halt hb hoff => exact ⟨fun _ => ⟨rfl, hb, hoff⟩, fun hp => ⟨rfl, (hpin hp).2⟩⟩
  | reset =>
    refine ⟨fun _ => ⟨rfl, rfl, fun n hn => ?_⟩, fun _ => ⟨rfl, rfl⟩⟩
    rw [ringAt_resetPart, if_pos hn]
    rfl
  | _ => exact ⟨hrest, hpin⟩

/-- Settles O8: a ring leaves OFF, a load is taken and a STOP is left pending under a RUNNING engine alone. -/
theorem restsUnlessRunningStays : Obligations.RestsUnlessRunningStays := fun _ _ =>
  step_keeps (fun _ _ => restsUnlessRunning_move)

/-! ## The load in flight (R46, R47, R165) -/

theorem loadAccounts_move {a b : State} (hm : Move a b) (ha : LoadAccounts a) : LoadAccounts b := by
  obtain ⟨hslot, hload⟩ := ha
  cases hm with
  | takeLoad _ hc hb =>
    refine ⟨rfl, fun x hx => ?_⟩
    cases hx
    obtain ⟨h1, h2, h3, h4, h5⟩ := hb
    exact ⟨by omega, hc.2, by omega, by omega⟩
  | @load b' x hb _ hl hc =>
    refine ⟨hslot.trans (by rw [hb]; rfl), fun y hy => ?_⟩
    cases hy
    obtain ⟨h1, h2, h3, h4⟩ := hload b' hb
    obtain ⟨k1, k2, k3, k4⟩ := hl
    exact ⟨by omega, by omega, by omega, by omega⟩
  | unload => exact ⟨rfl, fun _ h => (nomatch h)⟩
  | reset => exact ⟨rfl, fun _ h => (nomatch h)⟩
  | _ => exact ⟨hslot, hload⟩

/-- Settles O9: a load is taken with its slot, counts each image in one tally, and ends with its slot. -/
theorem loadStaysAccounted : Obligations.LoadStaysAccounted := fun _ _ => step_keeps (fun _ _ => loadAccounts_move)

/-! ## The settings of an INIT and the rings (R154, R175, R176) -/

theorem within_mem {lo hi : Nat} (h : lo ≤ hi) (n : Nat) : lo ≤ within lo hi n ∧ within lo hi n ≤ hi := by
  unfold within
  omega

theorem given_mem {lo hi : Nat} (h : lo ≤ hi) (block flag off width standard : Nat) :
    lo ≤ given block flag off width standard lo hi ∧ given block flag off width standard lo hi ≤ hi :=
  within_mem h _

theorem goodPlace_blockRing (block k : Nat) : GoodPlace (blockRing block k) := by
  refine ⟨field_lt block (4 * k) 4, ?_⟩
  change ringSize _ ∈ _
  unfold ringSize
  repeat' split
  all_goals decide

theorem readAt_blockRings (block k : Nat) {n : Nat} (h : n < requestRings) :
    readAt ⟨0, 0⟩ (blockRings block k) n = blockRing block (k + n) := by
  have e : blockRings block k = writeAt ⟨0, 0⟩ (writeAt ⟨0, 0⟩ (writeAt ⟨0, 0⟩ (writeAt ⟨0, 0⟩ []
      0 (blockRing block (k + 0))) 1 (blockRing block (k + 1))) 2 (blockRing block (k + 2))) 3
      (blockRing block (k + 3)) := rfl
  have hn : n = 0 ∨ n = 1 ∨ n = 2 ∨ n = 3 := by
    unfold requestRings at h
    omega
  rw [e]
  simp only [readAt_writeAt]
  rcases hn with rfl | rfl | rfl | rfl <;> rfl

theorem blockOverdue_mem (block : Nat) : 3600 ≤ blockOverdue block ∧ blockOverdue block ≤ 172800 :=
  given_mem (by decide) _ _ _ _ _

/-- R175, R176: a setup block gives settings in range, whatever its bytes. -/
theorem settingsOf_inRange (block : Nat) : SettingsInRange (settingsOf block) where
  requestRings n hn := by
    change GoodPlace (readAt _ (blockRings block 0) n)
    rw [readAt_blockRings block 0 hn]
    exact goodPlace_blockRing _ _
  responseRings n hn := by
    change GoodPlace (readAt _ (blockRings block 4) n)
    rw [readAt_blockRings block 4 hn]
    exact goodPlace_blockRing _ _
  noticeRing := goodPlace_blockRing _ _
  localOffset := by
    change -50400 ≤ blockOffset block ∧ blockOffset block ≤ 50400
    unfold blockOffset
    omega
  releaseWindow := given_mem (by decide) _ _ _ _ _
  reservationHold := given_mem (by decide) _ _ _ _ _
  claimDuration := given_mem (by decide) _ _ _ _ _
  overduePoint := blockOverdue_mem block
  lostPoint := by
    have h := (blockOverdue_mem block).2
    have hle : blockOverdue block + 3600 ≤ 604800 := by omega
    exact given_mem hle block 4 80 4 259200
  trendPeriod := given_mem (by decide) _ _ _ _ _
  bikeStrikeLimit := given_mem (by decide) _ _ _ _ _
  dockStrikeLimit := given_mem (by decide) _ _ _ _ _

theorem GoodPlace.size_pos {p : RingPlace} (h : GoodPlace p) : 0 < p.size := by
  have := h.2
  simp only [List.mem_cons, List.not_mem_nil, or_false] at this
  omega

theorem advance_lt {p : RingPlace} (h : GoodPlace p) (i : Nat) : advance p i < p.size := Nat.mod_lt _ (GoodPlace.size_pos h)

/-- R154: a request ring that is OFF, or works within its places. -/
def RingInRange (r : Ring) : Prop :=
  r.state = .off ∨ GoodPlace r.request ∧ GoodPlace r.response ∧ r.head < r.request.size ∧
    r.responseIndex < r.response.size

theorem ringInRange_move {s : State} {n : Nat} {r : Ring} (h : RingMove s n r) (hn : n < requestRings)
    (hset : s.engine.state = .running → SettingsInRange s.settings) (hr : RingInRange (ringAt s n)) : RingInRange r := by
  cases h with
  | work hw hreq hresp hhead hindex =>
    obtain ⟨h1, h2, h3, h4⟩ := hr.resolve_left hw
    refine .inr ?_
    rw [hreq, hresp]
    refine ⟨h1, h2, ?_, ?_⟩
    · rcases hhead with h | h <;> rw [h]
      · exact h3
      · exact advance_lt h1 _
    · rcases hindex with h | h <;> rw [h]
      · exact h4
      · exact advance_lt h2 _
  | start _ hrun hreq hresp hhead hindex =>
    have hs := hset hrun
    refine .inr ?_
    rw [hreq, hresp, hhead, hindex]
    exact ⟨hs.requestRings n hn, hs.responseRings n hn, GoodPlace.size_pos (hs.requestRings n hn),
      GoodPlace.size_pos (hs.responseRings n hn)⟩
  | off h => exact .inl h

theorem setupInRange_move {a b : State} (hm : Move a b) (ha : SetupInRange a) : SetupInRange b := by
  obtain ⟨hset, hrings⟩ := ha
  cases hm with
  | @ring n r h =>
    refine ⟨hset, fun k hk => ?_⟩
    rw [ringAt_setRing]
    split
    · rename_i hkn
      subst hkn
      exact ringInRange_move h hk (fun hrun => (hset hrun).1) (hrings k hk)
    · exact hrings k hk
  | notice h =>
    refine ⟨fun hrun => ?_, hrings⟩
    obtain ⟨h1, h2, h3⟩ := hset hrun
    refine ⟨h1, h2, ?_⟩
    rcases h with rfl | rfl
    · exact h3
    · exact advance_lt h2 _
  | @init kind block _ =>
    have hp := goodPlace_blockRing block 8
    exact ⟨fun _ => ⟨settingsOf_inRange block, hp, GoodPlace.size_pos hp⟩, hrings⟩
  | beginInit => exact ⟨fun h => (nomatch h), hrings⟩
  | failInit => exact ⟨fun h => (nomatch h), hrings⟩
  | halt => exact ⟨fun h => (nomatch h), hrings⟩
  | reset =>
    refine ⟨fun h => (nomatch h), fun n hn => .inl ?_⟩
    rw [ringAt_resetPart, if_pos hn]
    rfl
  | _ => exact ⟨hset, hrings⟩

/-- Settles O13: an INIT clamps its settings, and an index advances within its ring. -/
theorem setupStaysInRange : Obligations.SetupStaysInRange := fun _ _ => step_keeps (fun _ _ => setupInRange_move)

/-! ## The part right after reset (R179) -/

/-- Settles O2. -/
theorem resetMeetsInvariants : Obligations.ResetMeetsInvariants := by
  refine ⟨rfl, fun _ => trendOf_formatted, ⟨fun _ h => (nomatch h), fun _ h => (nomatch h)⟩,
    ⟨rfl, rfl, rfl, rfl, rfl, rfl, rfl, rfl, rfl, rfl, rfl⟩, fun _ => Nat.zero_le _,
    ⟨fun _ => ⟨rfl, rfl, fun _ _ => rfl⟩, fun h => (nomatch h)⟩, ⟨rfl, fun _ h => (nomatch h)⟩,
    ⟨fun _ _ h => (nomatch h), Int.le_refl _⟩, ?_, recordsInRange_formatted rfl rfl rfl rfl,
    ⟨fun h => (nomatch h), fun _ _ => .inl rfl⟩, fun h => (nomatch h)⟩
  exact
  { freeOnce := List.nodup_nil
    free := fun _ h => nomatch h
    placed := fun _ _ h => nomatch h
    chained := fun _ _ h => nomatch h
    chainedOnce := fun _ => List.nodup_nil
    distinct := fun _ _ _ _ h => nomatch h
    allFree := fun h => nomatch h }

end Sys2Proof.Proofs
end

section
/-! PROOF. Every step keeps the card index sound (O11): the creation and the removal of a card keep each part of the
index, a card rewritten keeps its serial, and INIT_FORMAT empties the index. -/

namespace Sys2Proof.Proofs

open Sys2Proof Sys2Proof.Machine Sys2Proof.Laws

-- One thread: the whole text is compiled in one process, whose threads the check limits.
set_option Elab.async false

/-- R33, R39: the creation of a card in the top slot of the stack, at the tail of its chain. -/
structure Created (st st' : Store) (slot : Nat) (c : Card) : Prop where
  free : st.cards.free = slot :: st'.cards.free
  card : ∀ j, cardAt st' j = if j = slot then some c else cardAt st j
  chain : ∀ b, chainAt st' b = if b = bucketOf c.serial then chainAt st b ++ [slot] else chainAt st b

theorem createCard_created {st st' : Store} {c : Card} {k : Nat} (h : createCard st c = some (k, st')) :
    Created st st' k c := by
  unfold createCard at h
  split at h
  · cases h
  · rename_i slot rest hfree
    cases h
    refine ⟨hfree, fun j => ?_, fun b => ?_⟩
    · rw [cardAt_putChain, cardAt_putCard]
      rfl
    · rw [chainAt_putChain, chainAt_putCard, chainAt_putCard]
      split
      · rename_i hb
        rw [hb]
        rfl
      · rfl

/-- R32: a card that is found nowhere along its chain has its serial nowhere in a sound index. -/
theorem serial_absent {s : State} (h : CardIndex s) {serial : Nat} (hn : findCard s.store serial = none)
    {j : Nat} {d : Card} (hd : cardAt s.store j = some d) : d.serial ≠ serial := by
  rintro rfl
  have := List.find?_eq_none.mp hn j (h.placed j d hd).2
  rw [hd] at this
  exact this (beq_self_eq_true _)

/-- R32: a free slot stands in no chain of a sound index. -/
theorem free_unchained {s : State} (h : CardIndex s) {k : Nat} (hk : cardAt s.store k = none) (b : Nat) :
    k ∉ chainAt s.store b := by
  intro hm
  obtain ⟨c, hc, -⟩ := h.chained b k hm
  rw [hk] at hc
  cases hc

theorem cardIndex_create {s : State} (h : CardIndex s) {st : Store} {k : Nat} {c : Card}
    (hn : findCard s.store c.serial = none) (hc : Created s.store st k c) : CardIndex { s with store := st } := by
  obtain ⟨hfree, hcard, hchain⟩ := hc
  have hnodup := h.freeOnce
  rw [hfree, List.nodup_cons] at hnodup
  have hk := h.free k (by rw [hfree]; exact List.mem_cons_self)
  have hold : ∀ {j : Nat} {d : Card}, cardAt st j = some d → j = k ∧ d = c ∨ j ≠ k ∧ cardAt s.store j = some d := by
    intro j d hd
    rw [hcard] at hd
    split at hd
    · exact .inl ⟨‹_›, (Option.some.inj hd).symm⟩
    · exact .inr ⟨‹_›, hd⟩
  have hkept : ∀ {j : Nat} {d : Card}, cardAt s.store j = some d → cardAt st j = some d := by
    intro j d hd
    rw [hcard, if_neg, hd]
    rintro rfl
    rw [hk.2] at hd
    cases hd
  have hmem : ∀ b j, j ∈ chainAt st b ↔ j ∈ chainAt s.store b ∨ b = bucketOf c.serial ∧ j = k := by
    intro b j
    rw [hchain]
    split <;> simp [*]
  refine
  { freeOnce := hnodup.2, free := fun j hj => ?_, placed := fun j d hd => ?_, chained := fun b j hj => ?_
    chainedOnce := fun b => ?_, distinct := fun i j d e hd he hde => ?_, allFree := fun hf j hj hcj => ?_ }
  · obtain ⟨hj1, hj2⟩ := h.free j (by rw [hfree]; exact List.mem_cons_of_mem _ hj)
    refine ⟨hj1, ?_⟩
    change cardAt st j = none
    rw [hcard, if_neg (fun he : j = k => hnodup.1 (he ▸ hj)), hj2]
  · rcases hold hd with ⟨rfl, rfl⟩ | ⟨-, hd⟩
    · exact ⟨hk.1, (hmem _ _).mpr (.inr ⟨rfl, rfl⟩)⟩
    · exact ⟨(h.placed j d hd).1, (hmem _ _).mpr (.inl (h.placed j d hd).2)⟩
  · rcases (hmem b j).mp hj with hj | ⟨rfl, rfl⟩
    · obtain ⟨d, hd, hb⟩ := h.chained b j hj
      exact ⟨d, hkept hd, hb⟩
    · exact ⟨c, (hcard j).trans (if_pos rfl), rfl⟩
  · change (chainAt st b).Nodup
    rw [hchain]
    split
    · refine List.nodup_append.mpr ⟨h.chainedOnce b, List.pairwise_singleton _ _, fun x hx y hy hxy => ?_⟩
      rw [hxy, List.mem_singleton.mp hy] at hx
      exact free_unchained h hk.2 b hx
    · exact h.chainedOnce b
  · rcases hold hd with ⟨rfl, rfl⟩ | ⟨-, hd⟩ <;> rcases hold he with ⟨rfl, rfl⟩ | ⟨-, he⟩
    · rfl
    · exact absurd hde.symm (serial_absent h hn he)
    · exact absurd hde (serial_absent h hn hd)
    · exact h.distinct i j d e hd he hde
  · change cardAt st j = none at hcj
    rw [hcard] at hcj
    split at hcj
    · cases hcj
    · rename_i hjk
      have := h.allFree hf j hj hcj
      rw [hfree] at this
      exact (List.mem_cons.mp this).resolve_left hjk

theorem cardIndex_remove {s : State} (h : CardIndex s) {st : Store} {k : Nat} {c : Card}
    (hc : cardAt s.store k = some c) (hr : Removed s.store st k c) : CardIndex { s with store := st } := by
  obtain ⟨hcard, hchain, hfree⟩ := hr
  have hold : ∀ {j : Nat} {d : Card}, cardAt st j = some d → j ≠ k ∧ cardAt s.store j = some d := by
    intro j d hd
    rw [hcard] at hd
    split at hd
    · cases hd
    · exact ⟨‹_›, hd⟩
  have hmem : ∀ b j, j ∈ chainAt st b ↔ j ∈ chainAt s.store b ∧ j ≠ k := by
    intro b j
    rw [hchain]
    split
    · simp
    · rename_i hb
      refine ⟨fun hj => ⟨hj, ?_⟩, And.left⟩
      rintro rfl
      obtain ⟨d, hd, hbd⟩ := h.chained b j hj
      rw [hc] at hd
      exact hb (by rw [← hbd, Option.some.inj hd])
  refine
  { freeOnce := ?_, free := fun j hj => ?_, placed := fun j d hd => ?_, chained := fun b j hj => ?_
    chainedOnce := fun b => ?_, distinct := fun i j d e hd he hde => h.distinct i j d e (hold hd).2 (hold he).2 hde
    allFree := fun hf j hj hcj => ?_ }
  · change st.cards.free.Nodup
    rw [hfree]
    refine List.nodup_cons.mpr ⟨fun hk => ?_, h.freeOnce⟩
    rw [(h.free k hk).2] at hc
    cases hc
  · change j ∈ st.cards.free at hj
    change j < Config.cardSlots ∧ cardAt st j = none
    rw [hfree] at hj
    rw [hcard]
    rcases List.mem_cons.mp hj with rfl | hj
    · exact ⟨(h.placed j c hc).1, if_pos rfl⟩
    · refine ⟨(h.free j hj).1, ?_⟩
      split
      · rfl
      · exact (h.free j hj).2
  · obtain ⟨hjk, hd⟩ := hold hd
    exact ⟨(h.placed j d hd).1, (hmem _ _).mpr ⟨(h.placed j d hd).2, hjk⟩⟩
  · obtain ⟨hj, hjk⟩ := (hmem b j).mp hj
    obtain ⟨d, hd, hb⟩ := h.chained b j hj
    exact ⟨d, (hcard j).trans ((if_neg hjk).trans hd), hb⟩
  · change (chainAt st b).Nodup
    rw [hchain]
    split
    · exact (h.chainedOnce b).filter _
    · exact h.chainedOnce b
  · change cardAt st j = none at hcj
    change j ∈ st.cards.free
    rw [hfree]
    by_cases hjk : j = k
    · exact hjk ▸ List.mem_cons_self
    · rw [hcard, if_neg hjk] at hcj
      exact List.mem_cons_of_mem _ (h.allFree hf j hj hcj)

/-- A card rewritten with its serial kept. -/
theorem cardIndex_rewrite {s : State} (h : CardIndex s) {k : Nat} {c c' : Card} (hc : cardAt s.store k = some c)
    (hs : c'.serial = c.serial) : CardIndex { s with store := putCard s.store k (some c') } := by
  have hold : ∀ {j : Nat} {d : Card}, cardAt (putCard s.store k (some c')) j = some d →
      ∃ e, cardAt s.store j = some e ∧ e.serial = d.serial := by
    intro j d hd
    rw [cardAt_putCard] at hd
    split at hd
    · rename_i hj
      cases hd
      exact ⟨c, hj ▸ hc, hs.symm⟩
    · exact ⟨d, hd, rfl⟩
  have hnone : ∀ j, cardAt (putCard s.store k (some c')) j = none ↔ cardAt s.store j = none := by
    intro j
    rw [cardAt_putCard]
    split
    · rename_i hj
      rw [hj, hc]
      exact ⟨fun h => (nomatch h), fun h => nomatch h⟩
    · rfl
  refine
  { freeOnce := h.freeOnce, free := fun j hj => ⟨(h.free j hj).1, (hnone j).mpr (h.free j hj).2⟩
    placed := fun j d hd => ?_, chained := fun b j hj => ?_, chainedOnce := h.chainedOnce
    distinct := fun i j d e hd he hde => ?_
    allFree := fun hf j hj hcj => h.allFree hf j hj ((hnone j).mp hcj) }
  · obtain ⟨e, he, hse⟩ := hold hd
    rw [← hse]
    exact h.placed j e he
  · obtain ⟨d, hd, hb⟩ := h.chained b j hj
    by_cases hjk : j = k
    · subst hjk
      rw [hc] at hd
      cases hd
      exact ⟨c', cardAt_putCard_same _ _ _, by rw [hs]; exact hb⟩
    · exact ⟨d, (cardAt_putCard _ _ _ _).trans ((if_neg hjk).trans hd), hb⟩
  · obtain ⟨d', hd', hsd⟩ := hold hd
    obtain ⟨e', he', hse⟩ := hold he
    exact h.distinct i j d' e' hd' he' (hsd.trans (hde.trans hse.symm))

/-- The index reads the Card Store alone. -/
theorem cardIndex_congr {s t : State} (h : CardIndex s) (hc : t.store.cards = s.store.cards)
    (hf : t.engine.formatted = true → s.engine.formatted = true) : CardIndex t := by
  have hcard : ∀ k, cardAt t.store k = cardAt s.store k := fun k => by rw [cardAt, cardAt, hc]
  have hchain : ∀ b, chainAt t.store b = chainAt s.store b := fun b => by rw [chainAt, chainAt, hc]
  constructor <;> simp only [hc, hcard, hchain]
  · exact h.freeOnce
  · exact h.free
  · exact h.placed
  · exact h.chained
  · exact h.chainedOnce
  · exact h.distinct
  · exact fun h' => h.allFree (hf h')

theorem cardIndex_edit {s : State} {a b : Store} (he : Edit a b) (ha : CardIndex { s with store := a }) :
    CardIndex { s with store := b } := by
  cases he with
  | card hc hs => exact cardIndex_rewrite ha hc hs
  | create hn _ hc => exact cardIndex_create ha hn (createCard_created hc)
  | @remove k =>
    cases hc : cardAt a k with
    | none =>
      unfold removeCard
      rw [hc]
      exact ha
    | some c => exact cardIndex_remove ha hc (removeCard_removed hc).1
  | _ => exact cardIndex_congr ha rfl id

/-- R177: the index as INIT_FORMAT leaves it. -/
theorem cardIndex_format {s : State} (h : s.store.cards = ⟨[], [], List.range' 0 Config.cardSlots⟩) :
    CardIndex s := by
  have hcard : ∀ k, cardAt s.store k = none := fun k => by rw [cardAt, h]; rfl
  have hchain : ∀ b, chainAt s.store b = [] := fun b => by rw [chainAt, h]; rfl
  constructor <;> simp only [h, hcard, hchain]
  · exact List.nodup_range'
  · exact fun k hk => ⟨by simpa using List.mem_range'_1.mp hk, trivial⟩
  · exact fun _ _ h => nomatch h
  · exact fun _ _ h => nomatch h
  · exact fun _ => List.nodup_nil
  · exact fun _ _ _ _ h => nomatch h
  · exact fun _ k hk _ => List.mem_range'_1.mpr ⟨Nat.zero_le _, by simpa using hk⟩

theorem cardIndex_move {a b : State} (hm : Move a b) (ha : CardIndex a) : CardIndex b := by
  cases hm with
  | records h => exact h.keeps (P := fun st => CardIndex { a with store := st }) (fun _ _ => cardIndex_edit) ha
  | @init kind block h =>
    cases kind with
    | format => exact cardIndex_format rfl
    | keep => exact cardIndex_congr ha rfl id
  | reset => exact cardIndex_congr ha rfl (fun h => nomatch h)
  | _ => exact cardIndex_congr ha rfl id

/-- Settles O11. -/
theorem cardIndexStaysSound : Obligations.CardIndexStaysSound := fun _ _ => step_keeps (fun _ _ => cardIndex_move)

end Sys2Proof.Proofs
end

section
/-! PROOF. The queries and the requests on one card: CARD_QUERY and CARD_CHECK (O15), CARD_PUT (O16), CARD_RETIRE
(O19) and HIRE_QUERY (O22). -/

namespace Sys2Proof.Proofs

open Sys2Proof Sys2Proof.Machine Sys2Proof.Laws

-- One thread: the whole text is compiled in one process, whose threads the check limits.
set_option Elab.async false

/-- A request whose rule answers and leaves the work that it began with. -/
theorem completes_answer {c : Instr} {code : Byte} {q : Request} {s : State}
    {rule : Work → Request → Reply × Work} {r : Reply} (h : Takes code q s)
    (he : exec c s = .next (grantRequest code (workRule rule) q s)) (hr : rule (begun s) q = (r, begun s)) :
    Completes c code q s r [] (fun t => t = s.store) := completes_of h he hr rfl rfl

/-! ## CARD_QUERY and CARD_CHECK (R44, R45) -/

theorem cardQuery_present {w : Work} {q : Request} {slot : Nat} {c : Card}
    (h : Names w.store (param q 0 7) slot c) :
    cardQuery w q = ({ outcome := .ok, result := cardRecord c }, w) := by
  obtain ⟨hs, hn⟩ := h
  unfold cardQuery
  rw [if_neg hs, hn]

/-- The card that a serial names is found along its chain, or nowhere. -/
theorem findCard_bind {st : Store} {serial : Nat} :
    (findCard st serial).bind (cardAt st) = (namedCard st serial).map Prod.snd := by
  unfold namedCard
  cases findCard st serial with
  | none => rfl
  | some slot =>
    simp only [Option.bind_some, Option.map_map]
    cases cardAt st slot <;> rfl

theorem cardCheck_present {w : Work} {q : Request} {slot : Nat} {c : Card}
    (h : Names w.store (param q 0 7) slot c) :
    cardCheck w q = ({ outcome := .ok, result := standingRecord c }, w) := by
  obtain ⟨hs, hn⟩ := h
  unfold cardCheck
  rw [if_neg hs, findCard_bind, hn]
  rfl

/-- R35, R36: an absent card of an accepted foreign issuer. -/
theorem absentCard_accepted {set : Settings} {serial : Nat} (h : ForeignAccepted set serial) :
    absentCard set serial = .accepted := by
  obtain ⟨h1, h2⟩ := h
  simp [absentCard, h1, h2]

theorem cardCheck_absent {w : Work} {q : Request} (hs : param q 0 7 ≠ Config.serialAbsent)
    (hn : namedCard w.store (param q 0 7) = none) (hf : ForeignAccepted w.set (param q 0 7)) :
    cardCheck w q = ({ outcome := .notFound, guestEligible := true }, w) := by
  unfold cardCheck
  rw [if_neg hs, findCard_bind, hn, absentCard_accepted hf]
  rfl

/-- Settles O15. -/
theorem cardQueriesAnswer : Obligations.CardQueriesAnswer := fun _ _ =>
  ⟨fun ht _ _ hn => completes_answer ht rfl (cardQuery_present hn),
    fun ht => ⟨fun _ _ hn => completes_answer ht rfl (cardCheck_present hn),
      fun hs hn hf => completes_answer ht rfl (cardCheck_absent hs hn hf)⟩⟩

/-! ## CARD_PUT (R39, R40) -/

/-- R184: the parameters of a CARD_PUT that passes the checks that read no record. -/
theorem goodImage_putParams {q : Request} {cls : CardClass} (hs : param q 0 7 ≠ Config.serialAbsent)
    (hc : CardClass.ofCode (param q 7 1) = some cls) (hst : param q 8 1 = 0 ∨ param q 8 1 = 2)
    (hlow : 1 ≤ param q 9 1) (hhigh : param q 9 1 ≤ 4) : goodImage (putParams q) = true := by
  rcases hst with hst | hst <;> simp [goodImage, putParams, hs, hc, hst, hlow, hhigh, CardStatus.toCode]

theorem goodOpening_of {b : Int} (hlow : -1000000 ≤ b) (hhigh : b ≤ 1000000) : goodOpening b = true := by
  simp [goodOpening, Config.balanceMax, hlow, hhigh]

/-- R33, R39: the records once a card has been created in the top slot of the stack, at the tail of its chain. -/
def withCreated (st : Store) (slot : Nat) (rest : List Nat) (c : Card) : Store :=
  putChain (putCard { st with cards.free := rest } slot (some c)) (bucketOf c.serial)
    (chainAt st (bucketOf c.serial) ++ [slot])

theorem createCard_top {st : Store} {slot : Nat} {rest : List Nat} (h : st.cards.free = slot :: rest) (c : Card) :
    createCard st c = some (slot, withCreated st slot rest c) := by
  unfold createCard
  rw [h]
  rfl

theorem putImage_creates {st : Store} {i : CardImage} {slot : Nat} {rest : List Nat}
    (hn : findCard st i.serial = none) (ho : goodOpening i.opening = true) (hf : st.cards.free = slot :: rest) :
    putImage st i = .created slot (withCreated st slot rest (createdCard i)) := by
  rw [putImage_absent hn, if_pos ho, createCard_top hf]

theorem cardPut_creates {w : Work} {q : Request} {slot : Nat} {rest : List Nat} (hg : goodImage (putParams q) = true)
    (hn : findCard w.store (param q 0 7) = none) (ho : goodOpening (signedParam q 12 4) = true)
    (hf : w.store.cards.free = slot :: rest) :
    cardPut w q =
      ({ outcome := .ok, result := le 1 0 ++ cardRecord (createdCard (putParams q)) },
        { w with store := withCreated w.store slot rest (createdCard (putParams q)) }) := by
  have hp := putImage_creates (i := putParams q) hn ho hf
  unfold cardPut
  dsimp only
  rw [if_pos hg, hp]
  simp only [slotRecord, withCreated, cardAt_putChain, cardAt_putCard_same]

theorem cardPut_updates {w : Work} {q : Request} {slot : Nat} {c : Card} (hg : goodImage (putParams q) = true)
    (hn : Names w.store (param q 0 7) slot c) :
    cardPut w q =
      ({ outcome := .ok, result := le 1 1 ++ cardRecord (updatedCard (putParams q) c) },
        w.setCard slot (updatedCard (putParams q) c)) := by
  obtain ⟨hf, hc⟩ := namedCard_some hn.2
  have hp := putImage_present (i := putParams q) hf
  rw [hc] at hp
  unfold cardPut
  dsimp only
  rw [if_pos hg, hp]
  simp only [slotRecord, Option.map_some, cardAt_putCard_same]
  rfl

/-- R39: the card that a creation makes of the parameters. -/
theorem createdCard_putParams {q : Request} {cls : CardClass} (hc : CardClass.ofCode (param q 7 1) = some cls)
    (hst : param q 8 1 = 0 ∨ param q 8 1 = 2) :
    createdCard (putParams q) =
      { serial := param q 0 7, cls := cls, status := if param q 8 1 = 0 then .active else .blocked
        guest := false, balance := signedParam q 12 4, carry := 0, holdTotal := 0, openHires := []
        hireLimit := param q 9 1, expiryDay := if param q 10 2 = 65535 then none else some (param q 10 2)
        capDay := 0, daySpent := 0, reservation := none, reportsToday := 0, reportDay := 0 } := by
  rcases hst with hst | hst <;> simp [createdCard, putParams, hc, hst, expiryOf, CardStatus.toCode]

/-- R31, R40: the card that an update leaves. -/
theorem updatedCard_putParams {q : Request} {cls : CardClass} (hc : CardClass.ofCode (param q 7 1) = some cls)
    (hst : param q 8 1 = 0 ∨ param q 8 1 = 2) (c : Card) :
    updatedCard (putParams q) c =
      { c with
        cls := cls, hireLimit := param q 9 1, guest := false
        expiryDay := if param q 10 2 = 65535 then none else some (param q 10 2)
        status :=
          if param q 8 1 = 2 then .blocked
          else if c.status = .blocked ∨ c.status = .retiring then
            if 0 ≤ c.balance then .active else .suspended
          else c.status } := by
  rcases hst with hst | hst
  · cases hcs : c.status <;>
      simp [updatedCard, putParams, hc, hst, expiryOf, putStatus, standingStatus, CardStatus.toCode, hcs]
  · simp [updatedCard, putParams, hc, hst, expiryOf, putStatus, CardStatus.toCode]

/-- Settles O16. -/
theorem cardPutCreatesOrUpdates : Obligations.CardPutCreatesOrUpdates := by
  refine ⟨fun q s cls slot rest ht hs hc hst hlow hhigh hn hb1 hb2 hf => ?_,
    fun q s cls slot c ht hc hst hlow hhigh hn => ?_⟩
  · have hr := cardPut_creates (w := begun s) (goodImage_putParams hs hc hst hlow hhigh) hn (goodOpening_of hb1 hb2) hf
    rw [createdCard_putParams hc hst] at hr
    exact completes_of ht rfl hr rfl rfl
  · have hr := cardPut_updates (w := begun s) (goodImage_putParams hn.1 hc hst hlow hhigh) hn
    rw [updatedCard_putParams hc hst] at hr
    exact completes_setCard ht rfl hr

/-! ## CARD_RETIRE (R43) -/

theorem cardRetire_present {w : Work} {q : Request} {slot : Nat} {c : Card}
    (h : Names w.store (param q 0 7) slot c) :
    cardRetire w q =
      if c.openHires = [] then
        ({ outcome := .ok, result := encMoney c.balance ++ le 1 c.carry },
          { w.endReservation slot c.reservation with
            store := removeCard (w.endReservation slot c.reservation).store slot })
      else
        ({ outcome := .deferred, result := le 1 c.openHires.length ++ encMoney c.balance },
          (w.endReservation slot c.reservation).modifyCard slot (fun c => { c with status := .retiring })) := by
  obtain ⟨hs, hn⟩ := h
  unfold cardRetire
  rw [if_neg hs, hn]

/-- A card modified where it is present. -/
theorem modifyCard_present {w : Work} {k : Nat} {c : Card} (h : cardAt w.store k = some c) (f : Card → Card) :
    w.modifyCard k f = w.setCard k (f c) := by
  unfold Work.modifyCard
  rw [h]

/-- R34: the removal of a card goes by its serial, and leaves everything but the Card Store. -/
theorem removed_of_rewritten {st st' : Store} {slot : Nat} {c c' : Card}
    (hc : cardAt st' slot = some c') (hs : c'.serial = c.serial)
    (hcards : ∀ k, k ≠ slot → cardAt st' k = cardAt st k) (hchain : ∀ b, chainAt st' b = chainAt st b)
    (hfree : st'.cards.free = st.cards.free) : Removed st (removeCard st' slot) slot c := by
  obtain ⟨⟨h1, h2, h3⟩, -⟩ := removeCard_removed hc
  refine ⟨fun k => ?_, fun b => ?_, h3.trans (by rw [hfree])⟩
  · rw [h1]
    split
    · rfl
    · exact hcards k ‹_›
  · rw [h2, hchain, hs]

theorem removed_congr {st a b : Store} {slot : Nat} {c : Card} (h : b.cards = a.cards) (hr : Removed st a slot c) :
    Removed st b slot c := by
  unfold Removed cardAt chainAt at hr ⊢
  rwa [h]

section
variable {q : Request} {s : State} {slot : Nat} {c : Card} (ht : Takes 29#8 q s)
  (hn : Names s.store (param q 0 7) slot c)
include ht hn

theorem cardRetire_completes_unreserved (hres : c.reservation = none) :
    (c.openHires = [] →
      Completes (.cardRetire q) 29#8 q s { outcome := .ok, result := encMoney c.balance ++ le 1 c.carry } []
        (fun t => Removed s.store t slot c ∧ t = { s.store with cards := t.cards })) ∧
    (c.openHires ≠ [] →
      Completes (.cardRetire q) 29#8 q s
        { outcome := .deferred, result := le 1 c.openHires.length ++ encMoney c.balance } []
        (fun t => t = putCard s.store slot (some { c with status := .retiring }))) := by
  obtain ⟨-, hc⟩ := namedCard_some hn.2
  have hr := cardRetire_present (w := begun s) (q := q) hn
  rw [hres] at hr
  refine ⟨fun ho => ?_, fun ho => ?_⟩
  · rw [if_pos ho] at hr
    exact completes_of ht rfl hr rfl (removeCard_removed hc)
  · rw [if_neg ho] at hr
    refine completes_setCard ht rfl (hr.trans ?_)
    rw [Work.endReservation, modifyCard_present hc]

/-- R43, R65: the records once the reservation of the card has been ended and its card retired or removed. -/
theorem cardRetire_completes_reserved {r : Reservation} (hres : c.reservation = some r) :
    let ended (t : Store) : Store :=
      { putBike s.store r.bike { bikeAt s.store r.bike with heldFor := none } with
        cards := t.cards, fleet.stations := t.fleet.stations
        fleet.reservationsHeld := s.store.fleet.reservationsHeld - 1
        timer.deadlines := dropEntry (.holdExpiry r.bike) s.store.timer.deadlines }
    (c.openHires = [] →
      CompletesAt (.cardRetire q) 29#8 q s { outcome := .ok, result := encMoney c.balance ++ le 1 c.carry } []
        (stationAt s.store) (stationsOfBike s.store r.bike) (fun t => Removed s.store t slot c ∧ t = ended t)) ∧
    (c.openHires ≠ [] →
      CompletesAt (.cardRetire q) 29#8 q s
        { outcome := .deferred, result := le 1 c.openHires.length ++ encMoney c.balance } []
        (stationAt s.store) (stationsOfBike s.store r.bike)
        (fun t => SameIndex s.store t ∧
          (∀ k, cardAt t k =
            if k = slot then some { c with reservation := none, status := .retiring }
            else cardAt s.store k) ∧ t = ended t)) := by
  obtain ⟨-, hc⟩ := namedCard_some hn.2
  have hr := cardRetire_present (w := begun s) (q := q) hn
  obtain ⟨hst, -, hnotes, htouched⟩ := endHold_eq (w := begun s) (b := r.bike) hc
  rw [hres] at hr
  change cardRetire (begun s) q = if c.openHires = [] then (_, { (begun s).endHold slot r.bike with
    store := removeCard ((begun s).endHold slot r.bike).store slot }) else
      (_, ((begun s).endHold slot r.bike).modifyCard slot _) at hr
  generalize (begun s).endHold slot r.bike = w at hst hnotes htouched hr
  have hcw : cardAt w.store slot = some { c with reservation := none } := by rw [hst]; exact cardAt_putCard_same _ _ _
  have hconcerned : ∀ i, i ∈ w.touched ↔ i ∈ stationsOfBike s.store r.bike := by
    intro i
    simpa [begun] using htouched i
  refine ⟨fun ho => ?_, fun ho => ?_⟩
  · rw [if_pos ho] at hr
    have hrem : Removed s.store (removeCard w.store slot) slot c := by
      refine removed_of_rewritten hcw rfl (fun k hk => ?_) (fun b => ?_) ?_ <;> rw [hst]
      · exact (cardAt_putCard _ _ _ _).trans (if_neg hk)
      · rfl
      · rfl
    refine completesAt_of ht rfl hr hnotes (fun i => ?_) hconcerned (fun st hb => ⟨removed_congr hb.cards hrem, ?_⟩)
    · dsimp only
      rw [removeCard_cards, hst]
      rfl
    · have he := hb.eq
      dsimp only at he
      rw [removeCard_cards, hst] at he
      rw [he]
      rfl
  · rw [if_neg ho, modifyCard_present hcw] at hr
    refine completesAt_of ht rfl hr hnotes (fun i => ?_) hconcerned (fun st hb => ⟨?_, fun k => ?_, ?_⟩)
    · rw [setCard_store, hst]
      rfl
    · have hcards := hb.cards
      rw [setCard_store, hst] at hcards
      unfold SameIndex
      rw [hcards]
      exact ⟨rfl, rfl⟩
    · rw [cardAt, hb.cards]
      change cardAt (putCard w.store slot _) k = _
      rw [cardAt_putCard, hst]
      split
      · rfl
      · exact (cardAt_putCard _ _ _ _).trans (if_neg ‹_›)
    · have he := hb.eq
      rw [setCard_store, hst] at he
      rw [he]
      rfl

end

/-- Settles O19. -/
theorem cardRetireRemovesOrDefers : Obligations.CardRetireRemovesOrDefers :=
  ⟨fun _ _ _ _ ht hn hres => cardRetire_completes_unreserved ht hn hres,
    fun _ _ _ _ _ ht hn hres => cardRetire_completes_reserved ht hn hres⟩

/-! ## HIRE_QUERY (R64) -/

section
variable {w : Work} {q : Request}

theorem hireQuery_open {r : Hire} (hform : param q 0 1 = 0) (hslot : param q 1 2 < 1024)
    (hr : hireAt w.store (handleParam q 1) = some r) :
    hireQuery w q = ({ outcome := .ok, result := hireSummary w.store (handleParam q 1) r }, w) := by
  have hle : ¬ Config.hireSlots ≤ (handleParam q 1).slot := Nat.not_le.mpr hslot
  unfold hireQuery
  dsimp only
  rw [if_pos hform, if_neg hle, hr]

theorem hireQuery_stale (hform : param q 0 1 = 0) (hslot : param q 1 2 < 1024)
    (hr : hireAt w.store (handleParam q 1) = none) : hireQuery w q = refuse w .staleId := by
  have hle : ¬ Config.hireSlots ≤ (handleParam q 1).slot := Nat.not_le.mpr hslot
  unfold hireQuery
  dsimp only
  rw [if_pos hform, if_neg hle, hr]

theorem hireQuery_card {slot : Nat} {c : Card} (hform : param q 0 1 = 1) (hn : Names w.store (param q 1 7) slot c) :
    hireQuery w q =
      ({ outcome := .ok
         result := le 1 c.openHires.length ++ c.openHires.flatMap (summaryOf w.store) }, w) := by
  have hne : param q 0 1 ≠ 0 := by rw [hform]; decide
  unfold hireQuery
  dsimp only
  rw [if_neg hne, if_pos hform, if_neg hn.1, hn.2]

end

/-- Settles O22. -/
theorem hireQueryAnswers : Obligations.HireQueryAnswers := fun _ _ ht =>
  ⟨fun _ hform hslot hr => completes_answer ht rfl (hireQuery_open hform hslot hr),
    fun hform hslot hr => completes_refuse ht rfl (hireQuery_stale hform hslot hr),
    fun _ _ hform hn => completes_answer ht rfl (hireQuery_card hform hn)⟩

end Sys2Proof.Proofs
end

section
/-! PROOF. The bulk card load: a load that is taken (O20), and one image of a load (O21). -/

namespace Sys2Proof.Proofs

open Sys2Proof Sys2Proof.Machine Sys2Proof.Laws

-- One thread: the whole text is compiled in one process, whose threads the check limits.
set_option Elab.async false

/-! ## The end of a grant to a ring -/

/-- What the end of a grant that looks again at ring `n` leaves, the bus being clean: the state of that ring and the
settled counts apart, everything stands. -/
structure Looked (n : Nat) (s t : State) : Prop where
  store : t.store = s.store
  bulk : t.bulk = s.bulk
  settings : t.settings = s.settings
  port : t.port = s.port
  pending : t.pending = s.pending
  engine : t.engine = s.engine
  mem : t.hub.mem = s.hub.mem
  answers : t.hub.answers = []
  notice : t.rings.notice = s.rings.notice
  noticeIndex : t.rings.noticeIndex = s.rings.noticeIndex
  reserved : t.rings.reserved = s.rings.reserved
  inHand : t.rings.inHand = none
  ring : ringAt t n =
    { ringAt s n with
      state := if (ringAt s n).stopPending || s.engine.stopPending then .off else seenState t n
      stopPending := false }
  others : ∀ k, k ≠ n → ringAt t k = ringAt s k
  counts : ∀ r ∈ requesters, passOverOf t r = if requesting t r then passOverOf s r else 0

theorem lookAgain_looked {s : State} (h : AllOk s.hub.answers) (n : Nat) : Looked n s (endCommand (lookAgain s n)) := by
  obtain ⟨l1, l2, l3, l4, l5, l6, l7⟩ := lookAgain_ends h n
  have hport : (lookAgain s n).port = s.port := by
    obtain ⟨l, -, he⟩ := lookAgain_clean h n
    rw [he]
    split <;> rfl
  have hmem : (lookAgain s n).hub.mem = s.hub.mem := congrArg Board.mem l4
  have he := endCommand_ended l7
  generalize lookAgain s n = y at *
  generalize endCommand y = t at *
  have hseen : seenState t n = seenState s n := by
    refine seenState_congr (he.mem.trans hmem) (he.reserved.trans l1.reserved) ?_ ?_ ?_ ?_ <;> rw [he.rings, l5]
  exact
  { store := he.store.trans l2, bulk := he.bulk.trans l1.bulk, settings := he.settings.trans l1.settings
    port := he.port.trans hport, pending := he.pending.trans l1.pending, engine := he.engine.trans l3
    mem := he.mem.trans hmem, answers := he.answers, notice := he.notice.trans l1.notice
    noticeIndex := he.noticeIndex.trans (congrArg Board.index l4), reserved := he.reserved.trans l1.reserved
    inHand := he.inHand
    ring := by rw [he.rings, l5, hseen]
    others := fun k hk => (he.rings k).trans (l6 k hk)
    counts := fun r hr => by
      rw [he.counts r hr]
      unfold passOverOf
      rw [l1.passOver] }

/-! ## BULK_CARD_LOAD (R46, R164) -/

section
variable {u : State} {q : Request} (hlow : 1 ≤ param q 4 2) (hhigh : param q 4 2 ≤ 4096)
include hlow hhigh

theorem bulkCardLoad_taken (hb : u.bulk = none) :
    bulkCardLoad u q = .reserved { u with bulk := some ⟨param q 0 4, param q 4 2, 0, 0, 0, 0, 0⟩ } := by
  have h1 : param q 4 2 ≠ 0 := by omega
  have h2 : ¬ Config.bulkImages < param q 4 2 := Nat.not_lt.mpr hhigh
  simp [bulkCardLoad, h1, h2, hb]

theorem bulkCardLoad_busy (hb : u.bulk.isSome = true) :
    bulkCardLoad u q = .answered u { outcome := .busy } [] := by
  have h1 : param q 4 2 ≠ 0 := by omega
  have h2 : ¬ Config.bulkImages < param q 4 2 := Nat.not_lt.mpr hhigh
  simp [bulkCardLoad, h1, h2, hb]

end

/-- R164: the load is in flight, its slot reserved and passed over. -/
theorem bulkLoad_reserves {q : Request} {s : State} (ht : Takes 31#8 q s) (hlow : 1 ≤ param q 4 2)
    (hhigh : param q 4 2 ≤ 4096) (hb : s.bulk = none) :
    ∃ u x, RuleState 31#8 q s u ∧
      x = setRing { u with
          bulk := some ⟨param q 0 4, param q 4 2, 0, 0, 0, 0, 0⟩
          rings.reserved := some ⟨(ringAt u q.ring.val).responseIndex, q.tag⟩ } q.ring.val
        { ringAt u q.ring.val with
          responseIndex := advance (ringAt u q.ring.val).response (ringAt u q.ring.val).responseIndex } ∧
      exec (.bulkCardLoad q) s = .next (endCommand (lookAgain x q.ring.val)) := by
  obtain ⟨u, hu, htake⟩ := takeDescriptor_clean ht bulkCardLoad
  rw [bulkCardLoad_taken hlow hhigh (hu.bulk.trans hb)] at htake
  refine ⟨u, _, hu, rfl, ?_⟩
  change Host.Outcome.next (grantRequest 31#8 bulkCardLoad q s) = _
  unfold grantRequest
  rw [if_pos ht.1, htake]
  rfl

/-- Settles O20. -/
theorem bulkLoadIsTaken : Obligations.BulkLoadIsTaken := by
  intro q s ht hlow hhigh
  refine ⟨fun hb => ?_, fun hb => ?_⟩
  · obtain ⟨u, x, hu, hx, he⟩ := bulkLoad_reserves ht hlow hhigh hb
    have hring : q.ring.val = 3 := ring_of_takes ht rfl
    have hl := lookAgain_looked (s := x) (by rw [hx]; exact hu.answers) q.ring.val
    generalize endCommand (lookAgain x q.ring.val) = t at *
    have hxr : ringAt x q.ring.val = { ringAt u q.ring.val with
        responseIndex := advance (ringAt u q.ring.val).response (ringAt u q.ring.val).responseIndex } := by
      rw [hx]
      exact ringAt_setRing_same _ _ _
    have hxo : ∀ k, k ≠ q.ring.val → ringAt x k = ringAt u k := fun k hk => by
      rw [hx, ringAt_setRing, if_neg hk]
      rfl
    have hport : t.port = s.port := hl.port.trans ((by rw [hx]; rfl : x.port = u.port).trans hu.port)
    have hxe : x.engine = u.engine := by rw [hx]; rfl
    have hmoved := hl.ring
    rw [hxr, hxe, hu.ring, hu.engine] at hmoved
    have hmove : RingMoved q s t :=
    { head := by rw [hmoved], responseIndex := by rw [hmoved], request := by rw [hmoved], response := by rw [hmoved]
      stopPending := by rw [hmoved], state := by rw [hmoved]
      others := fun k hk => by rw [hl.others k hk, hxo k hk, hu.others k hk] }
    have hkept : Kept s t :=
    { settings := by rw [hl.settings, hx]; exact hu.settings
      index := by rw [hport], setupAddress := by rw [hport], enables := by rw [hport], dataOut := by rw [hport]
      notice := by rw [hl.notice, hx]; exact hu.notice
      inHand := hl.inHand, answers := hl.answers
      pending := by rw [hl.pending, hx]; exact hu.pending }
    refine ⟨t, he, ?_, ?_, ?_, ?_, hmove, by rw [hl.engine, hxe, hu.engine], hkept, fun r hr => ?_⟩
    · rw [hl.bulk, hx]
      rfl
    · rw [hl.reserved, hx]
      change some (ReservedSlot.mk (ringAt u q.ring.val).responseIndex q.tag) = _
      rw [hu.ring, hring]
    · rw [hl.store, hx]
      exact hu.store
    · unfold boardOf
      rw [hl.mem, hl.noticeIndex, hport, hx]
      change Board.mk u.hub.mem u.rings.noticeIndex _ = _
      rw [hu.mem, hu.noticeIndex]
    · rw [hl.counts r hr, ← hu.counts r hr, hx]
      rfl
  · obtain ⟨hs, ha⟩ := grantRequest_answered ht (rule := bulkCardLoad) (st := s.store) (r := { outcome := .busy }) (l := [])
      (fun u hu => ⟨u.hub.answers, hu.answers, by
        rw [bulkCardLoad_busy hlow hhigh (by rw [hu.bulk]; exact hb), ← hu.store]⟩)
    exact ⟨_, rfl, ha, hs⟩

/-! ## The end of a load (R47, R48, R164) -/

/-- R164: hub memory once the reserved slot has been written with the outcome and the tallies. -/
def slotMem (s : State) (b : BulkLoad) (o : OutcomeCode) (slot : ReservedSlot) : Table Byte :=
  memWrite s.hub.mem (slotAddress (ringAt s 3).response slot.index)
    (responseBytes 31#8 slot.tag { outcome := o, result := tallies b } false false)

/-- R164: the part once its load has ended and hub memory is `m`. -/
def loadEnded (s : State) (m : Table Byte) (l : List BusAnswer) : State :=
  { s with
    bulk := none, rings.reserved := none, port.events := s.port.events ||| responseWritten 3, hub := ⟨m, l⟩ }

theorem afterReserved_written (s : State) :
    afterReserved s true =
      if (ringAt s 3).state = .blocked then look (raiseEvent s (responseWritten 3)) 3
      else raiseEvent s (responseWritten 3) := by
  unfold afterReserved
  rw [if_pos rfl]
  rfl

theorem afterReserved_ended (s : State) (m : Table Byte) (l : List BusAnswer) :
    afterReserved { withHub s m l with bulk := none, rings.reserved := none } true =
      if (ringAt s 3).state = .blocked then look (loadEnded s m l) 3 else loadEnded s m l :=
  afterReserved_written _

/-- R48, R164: on a clean bus the load ends with its slot written; a look follows where the Office ring is BLOCKED. -/
theorem endBulk_clean {s : State} (h : AllOk s.hub.answers) {slot : ReservedSlot} (hs : s.rings.reserved = some slot)
    (b : BulkLoad) (o : OutcomeCode) :
    ∃ l, AllOk l ∧ endBulk s b o =
      if (ringAt s 3).state = .blocked then
        setRingState (loadEnded s (slotMem s b o slot) l) 3 (seenState (loadEnded s (slotMem s b o slot) l) 3)
      else loadEnded s (slotMem s b o slot) l := by
  have hw := busWrite_clean h (slotAddress (ringAt s officeRing).response slot.index)
    (responseBytes bulkCardLoadCode slot.tag { outcome := o, result := tallies b } false false) false
  have he : endBulk s b o =
      afterReserved { withHub s (slotMem s b o slot) s.hub.answers.tail with bulk := none, rings.reserved := none }
        true := by
    unfold endBulk
    rw [hs]
    dsimp only
    rw [hw]
    rfl
  rw [afterReserved_ended] at he
  generalize slotMem s b o slot = m at he
  by_cases hblocked : (ringAt s 3).state = .blocked
  · obtain ⟨l, hl, hlook⟩ := look_clean (s := loadEnded s m s.hub.answers.tail) h.tail 3
    rw [if_pos hblocked] at he
    refine ⟨l, hl, ?_⟩
    rw [if_pos hblocked, he, hlook]
    rfl
  · rw [if_neg hblocked] at he
    exact ⟨_, h.tail, by rw [if_neg hblocked, he]⟩

theorem endBulk_unreserved {s : State} (h : s.rings.reserved = none) (b : BulkLoad) (o : OutcomeCode) :
    endBulk s b o = { s with bulk := none } := by
  unfold endBulk
  rw [h]

/-! ## One image of a load (R47) -/

/-- What the work of a grant to the Bulk Loader leaves, whether or not it ends the load: the records are `st` and the
counts `p`. -/
structure ImageLeft (s : State) (p : Table Nat) (st : Store) (z : State) : Prop where
  store : z.store = st
  settings : z.settings = s.settings
  index : z.port.index = s.port.index
  setupAddress : z.port.setupAddress = s.port.setupAddress
  enables : z.port.enables = s.port.enables
  dataOut : z.port.dataOut = s.port.dataOut
  notice : z.rings.notice = s.rings.notice
  noticeIndex : z.rings.noticeIndex = s.rings.noticeIndex
  pending : z.pending = s.pending
  engine : z.engine = s.engine
  passOver : z.passOver = p
  rings : ∀ n, n ≠ 3 → ringAt z n = ringAt s n
  answers : AllOk z.hub.answers

/-- The part in the grant of an image that has been read, before the load is ended. -/
def imageRead (s : State) (hub : HubInput) (p : Table Nat) (done : Store × BulkLoad) : State :=
  { withAnswers (withCounts (beginCommand s hub) p) hub.answers.tail with store := done.1, bulk := some done.2 }

theorem bulkImage_read {s : State} {hub : HubInput} (hb : CleanBus hub) (p : Table Nat) (b : BulkLoad) :
    let done := applyImage s.settings s.store b
      (memRead (hubStores s.hub.mem hub.writes) (b.address + 32 * b.progress) 32)
    bulkImage (withCounts (beginCommand s hub) p) b =
      if b.progress + 1 = b.count then endBulk (imageRead s hub p done) done.2 .ok else imageRead s hub p done := by
  intro done
  have hr := busRead_clean (s := withCounts (beginCommand s hub) p) hb (b.address + 32 * b.progress) Config.imageBytes
  have hl := applyImage_loadMove s.settings s.store b
    (memRead (hubStores s.hub.mem hub.writes) (b.address + 32 * b.progress) 32)
  have he : bulkImage (withCounts (beginCommand s hub) p) b =
      if done.2.progress = done.2.count then endBulk (imageRead s hub p done) done.2 .ok
      else imageRead s hub p done := by
    unfold bulkImage
    rw [hr]
    rfl
  rw [hl.progress, hl.count] at he
  exact he

theorem imageRead_left {s : State} {hub : HubInput} (hb : CleanBus hub) (p : Table Nat) (done : Store × BulkLoad) :
    ImageLeft s p done.1 (imageRead s hub p done) :=
  ⟨rfl, rfl, rfl, rfl, rfl, rfl, rfl, rfl, rfl, rfl, rfl, fun _ _ => rfl, AllOk.tail hb⟩

theorem ImageLeft.ended {s z : State} {p : Table Nat} {st : Store} (h : ImageLeft s p st z) (m : Table Byte)
    {l : List BusAnswer} (hl : AllOk l) : ImageLeft s p st (loadEnded z m l) :=
  { h with answers := hl }

theorem ImageLeft.looked {s z : State} {p : Table Nat} {st : Store} (h : ImageLeft s p st z) (x : RingState) :
    ImageLeft s p st (setRingState z 3 x) :=
  { h with
    rings := fun n hn => by
      rw [setRingState, ringAt_setRing, if_neg hn]
      exact h.rings n hn }

/-- What the end of the command leaves, where the counts of the grant are `p`. -/
theorem ImageLeft.kept {s z : State} {p : Table Nat} {st : Store} (h : ImageLeft s p st z)
    (hp : ∀ r ∈ requesters, readAt 0 p r.priority = countAfterGrant s .bulk r) :
    (endCommand z).store = st ∧ Kept s (endCommand z) ∧ Counted .bulk s (endCommand z) ∧
      (endCommand z).engine = s.engine ∧ (endCommand z).rings.noticeIndex = s.rings.noticeIndex ∧
      ∀ n, n ≠ 3 → ringAt (endCommand z) n = ringAt s n := by
  have he := endCommand_ended h.answers
  refine ⟨he.store.trans h.store, ⟨he.settings.trans h.settings, ?_, ?_, ?_, ?_, he.notice.trans h.notice, he.inHand,
    he.answers, he.pending.trans h.pending⟩, fun r hr => ?_, he.engine.trans h.engine,
    he.noticeIndex.trans h.noticeIndex, fun n hn => (he.rings n).trans (h.rings n hn)⟩
  · rw [he.port, h.index]
  · rw [he.port, h.setupAddress]
  · rw [he.port, h.enables]
  · rw [he.port, h.dataOut]
  · rw [he.counts r hr, passOverOf, h.passOver, hp r hr]

/-- R47: a grant to the Bulk Loader that does not end the load. -/
theorem bulkImage_goes_on {s : State} {hub : HubInput} (hb : CleanBus hub) (p : Table Nat) (done : Store × BulkLoad)
    {t : State} (ht : t = endCommand (imageRead s hub p done)) :
    t.bulk = some done.2 ∧ t.rings.reserved = s.rings.reserved ∧ t.hub.mem = hubStores s.hub.mem hub.writes ∧
      t.port.events = s.port.events ∧ ringAt t 3 = ringAt s 3 := by
  have he := endCommand_ended (imageRead_left (s := s) hb p done).answers
  rw [← ht] at he
  exact ⟨he.bulk, he.reserved, he.mem, congrArg Port.events he.port, he.rings 3⟩

/-- R48, R164: the end of a load whose slot is reserved, as the end of the command leaves it. -/
theorem loadEnded_looked {z : State} {m : Table Byte} {l : List BusAnswer} (hl : AllOk l) {t : State}
    (ht : t = endCommand
      (if (ringAt z 3).state = .blocked then setRingState (loadEnded z m l) 3 (seenState (loadEnded z m l) 3)
      else loadEnded z m l)) :
    t.bulk = none ∧ t.rings.reserved = none ∧ t.hub.mem = m ∧ t.port.events = z.port.events ||| responseWritten 3 ∧
      ringAt t 3 = { ringAt z 3 with
        state := if (ringAt z 3).state = .blocked then seenState t 3 else (ringAt z 3).state } := by
  by_cases hb : (ringAt z 3).state = .blocked
  · rw [if_pos hb] at ht
    have he := endCommand_ended (s := setRingState (loadEnded z m l) 3 (seenState (loadEnded z m l) 3)) hl
    rw [← ht] at he
    have hring : ringAt t 3 = { ringAt z 3 with state := seenState (loadEnded z m l) 3 } :=
      (he.rings 3).trans (ringAt_setRing_same _ _ _)
    have hseen : seenState t 3 = seenState (loadEnded z m l) 3 := by
      refine seenState_congr he.mem he.reserved ?_ ?_ ?_ ?_ <;> rw [hring] <;> rfl
    exact ⟨he.bulk, he.reserved, he.mem, congrArg Port.events he.port, by rw [hring, if_pos hb, hseen]⟩
  · rw [if_neg hb] at ht
    have he := endCommand_ended (s := loadEnded z m l) hl
    rw [← ht] at he
    exact ⟨he.bulk, he.reserved, he.mem, congrArg Port.events he.port, by rw [if_neg hb]; exact he.rings 3⟩

/-- R47, R48: a grant to the Bulk Loader on a clean bus. -/
theorem bulkCardImage_exec {hub : HubInput} {s : State} {b : BulkLoad} (hb : s.bulk = some b)
    (hg : arbiterChoice s = some .bulk) :
    ∃ p, (∀ r ∈ requesters, readAt 0 p r.priority = countAfterGrant s .bulk r) ∧
      exec (.bulkCardImage hub) s = .next (endCommand (bulkImage (withCounts (beginCommand s hub) p) b)) := by
  obtain ⟨p, hp, hcount⟩ := chargeGrant_eq (beginCommand s hub) .bulk
  refine ⟨p, hcount, ?_⟩
  change execBulkCardImage hub s = _
  unfold execBulkCardImage
  rw [hb, ← hp]
  exact if_pos hg

/-- R39, R40, R47: what an image does to the records and the tallies. -/
theorem applyImage_bad {set : Settings} {st : Store} {b : BulkLoad} {block : Nat}
    (h : (set.checking = true ∧ byteSum 32 block ≠ 255) ∨ goodImage (imageOf block) = false) :
    applyImage set st b block =
      (st, { b with progress := b.progress + 1, processed := b.processed + 1, refused := b.refused + 1 }) := if_pos h

section
variable {set : Settings} {st : Store} {b : BulkLoad} {block : Nat}
  (h : ¬ ((set.checking = true ∧ byteSum 32 block ≠ 255) ∨ goodImage (imageOf block) = false))
include h

theorem applyImage_good :
    applyImage set st b block =
      match putImage st (imageOf block) with
      | .badOpening =>
        (st, { b with progress := b.progress + 1, processed := b.processed + 1, refused := b.refused + 1 })
      | .full => (st, { b with progress := b.progress + 1, processed := b.processed + 1, refused := b.refused + 1 })
      | .created _ st =>
        (st, { b with progress := b.progress + 1, processed := b.processed + 1, created := b.created + 1 })
      | .updated _ st =>
        (st, { b with progress := b.progress + 1, processed := b.processed + 1, updated := b.updated + 1 }) :=
  if_neg h

theorem applyImage_updates {slot : Nat} (hf : findCard st (imageOf block).serial = some slot) :
    applyImage set st b block =
      (putCard st slot ((cardAt st slot).map (updatedCard (imageOf block))),
        { b with progress := b.progress + 1, processed := b.processed + 1, updated := b.updated + 1 }) := by
  rw [applyImage_good h, putImage_present hf]

theorem applyImage_refuses (hf : findCard st (imageOf block).serial = none)
    (hr : (imageOf block).opening < -1000000 ∨ 1000000 < (imageOf block).opening ∨ st.cards.free = []) :
    applyImage set st b block =
      (st, { b with progress := b.progress + 1, processed := b.processed + 1, refused := b.refused + 1 }) := by
  rw [applyImage_good h, putImage_absent hf]
  by_cases ho : goodOpening (imageOf block).opening = true
  · have hfree : st.cards.free = [] := by
      unfold goodOpening Config.balanceMax at ho
      simp only [Bool.and_eq_true, decide_eq_true_eq] at ho
      rcases hr with hr | hr | hr
      · omega
      · omega
      · exact hr
    have hc : createCard st (createdCard (imageOf block)) = none := by
      unfold createCard
      rw [hfree]
    rw [if_pos ho, hc]
  · rw [if_neg ho]

theorem applyImage_creates (hf : findCard st (imageOf block).serial = none) {slot : Nat} {rest : List Nat}
    (hlow : -1000000 ≤ (imageOf block).opening) (hhigh : (imageOf block).opening ≤ 1000000)
    (hfree : st.cards.free = slot :: rest) :
    applyImage set st b block =
      (withCreated st slot rest (createdCard (imageOf block)),
        { b with progress := b.progress + 1, processed := b.processed + 1, created := b.created + 1 }) := by
  rw [applyImage_good h, putImage_creates hf (goodOpening_of hlow hhigh) hfree]

end

/-- Settles O21. -/
theorem bulkImageIsApplied : Obligations.BulkImageIsApplied := by
  refine ⟨fun hub s b hb hg hc => ?_, fun set st b block => ⟨applyImage_bad, fun h =>
    ⟨fun slot hf => applyImage_updates h hf, fun hf => ⟨applyImage_refuses h hf, fun slot rest hlow hhigh hfree =>
      applyImage_creates h hf hlow hhigh hfree⟩⟩⟩⟩
  obtain ⟨p, hp, he⟩ := bulkCardImage_exec (hub := hub) hb hg
  have hi := bulkImage_read (s := s) hc p b
  intro mem done
  generalize hd : applyImage s.settings s.store b _ = d at hi
  have hdone : done = d := hd
  clear_value done
  subst hdone
  dsimp only at hi
  have hleft := imageRead_left (s := s) hc p done
  by_cases hlast : b.progress + 1 = b.count
  · rw [if_pos hlast] at hi
    cases hs : s.rings.reserved with
    | none =>
      rw [endBulk_unreserved (s := imageRead s hub p done) hs] at hi
      rw [hi] at he
      have hleft' : ImageLeft s p done.1 { imageRead s hub p done with bulk := none } := { hleft with }
      obtain ⟨k1, k2, k3, k4, k5, k6⟩ := hleft'.kept hp
      exact ⟨_, he, k1, k2, k3, k4, k5, k6, fun hn => absurd hlast hn, fun _ _ h => nomatch h⟩
    | some slot =>
      obtain ⟨l, hl, hend⟩ := endBulk_clean (s := imageRead s hub p done) hleft.answers hs done.2 .ok
      rw [hend] at hi
      rw [hi] at he
      have hleft' : ImageLeft s p done.1 (if (ringAt (imageRead s hub p done) 3).state = .blocked then
          setRingState (loadEnded (imageRead s hub p done) (slotMem (imageRead s hub p done) done.2 .ok slot) l) 3
            (seenState (loadEnded (imageRead s hub p done) (slotMem (imageRead s hub p done) done.2 .ok slot) l) 3)
          else loadEnded (imageRead s hub p done) (slotMem (imageRead s hub p done) done.2 .ok slot) l) := by
        split
        · exact (hleft.ended _ hl).looked _
        · exact hleft.ended _ hl
      obtain ⟨k1, k2, k3, k4, k5, k6⟩ := hleft'.kept hp
      have hx := loadEnded_looked (z := imageRead s hub p done) (m := slotMem (imageRead s hub p done) done.2 .ok slot)
        hl rfl
      refine ⟨_, he, k1, k2, k3, k4, k5, k6, fun hn => absurd hlast hn, fun _ slot' h => ?_⟩
      cases h
      exact hx
  · rw [if_neg hlast] at hi
    rw [hi] at he
    obtain ⟨k1, k2, k3, k4, k5, k6⟩ := hleft.kept hp
    exact ⟨_, he, k1, k2, k3, k4, k5, k6, fun _ => bulkImage_goes_on hc p done rfl, fun h => absurd h hlast⟩

end Sys2Proof.Proofs
end

section
/-! PROOF. Reservations (O24) and the lapse of a release (O25). -/

namespace Sys2Proof.Proofs

open Sys2Proof Sys2Proof.Machine Sys2Proof.Laws

-- One thread: the whole text is compiled in one process, whose threads the check limits.
set_option Elab.async false

/-! ## The stations that a work concerns (R13) -/

/-- Two stores whose docks are in the same stations. -/
def SameDockStations (a b : Store) : Prop := ∀ d, (dockAt b d).station = (dockAt a d).station

theorem placeStation_congr {a b : Store} (h : SameDockStations a b) (p : Option Place) :
    placeStation b p = placeStation a p := by
  unfold placeStation
  split
  · rw [h]
  · rfl

theorem stationsOfBike_congr {a b : Store} (h : SameDockStations a b) {k : Nat}
    (hp : (bikeAt b k).place = (bikeAt a k).place) : stationsOfBike b k = stationsOfBike a k := by
  unfold stationsOfBike
  rw [hp, placeStation_congr h]

theorem stationsOfDock_congr {a b : Store} (h : SameDockStations a b) (d : Nat) :
    stationsOfDock b d = stationsOfDock a d := congrArg Option.toList (h d)

/-- A dock rewritten in the station that it is in. -/
theorem sameDockStations_putDock {a b : Store} (h : SameDockStations a b) {d : Nat} {r : Dock}
    (hr : r.station = (dockAt b d).station) : SameDockStations a (putDock b d r) := by
  intro k
  rw [dockAt_putDock]
  split
  · rename_i hk
    rw [hk, hr, h]
  · exact h k

/-- A bike rewritten at the place where it stands. -/
theorem mem_setBike_touched {w : Work} {b : Nat} {r : Bike} (h : r.place = (bikeAt w.store b).place) (i : Nat) :
    i ∈ (w.setBike b r).touched ↔ i ∈ w.touched ∨ i ∈ stationsOfBike w.store b := by
  simp [h, stationsOfBike]

/-- A dock rewritten in the station that it is in. -/
theorem mem_setDock_touched {w : Work} {d : Nat} {r : Dock} (h : r.station = (dockAt w.store d).station) (i : Nat) :
    i ∈ (w.setDock d r).touched ↔ i ∈ w.touched ∨ i ∈ stationsOfDock w.store d := by
  simp [h, stationsOfDock]

/-! ## The checks that a release and a reservation share (R51) -/

theorem stationRefusal_none {st : Store} {i now : Nat} (hc : st.timer.clock = some now)
    (ht : st.tariff.loaded = true) (hi : (stationAt st i).isDefined = true) : stationRefusal st i = none := by
  simp [stationRefusal, hc, ht, hi]

theorem standingRefusal_of {w : Work} {c : Card} {now : Nat} (hc : w.store.timer.clock = some now)
    (h : Standing w.set w.store now c) (hf : (freeHireSlot w.store).isSome = true) : standingRefusal w c = none := by
  obtain ⟨hstatus, hmember, hhires, hfunds⟩ := h
  have hexp : expired (dayNumber w.set w.now) c.expiryDay = false := by
    unfold expired
    split
    · rfl
    · rename_i d hd
      have := hmember d hd
      rw [Work.now, hc]
      simpa using this
  have hfree : (freeHireSlot w.store).isNone = false := by
    cases h : freeHireSlot w.store with
    | none => rw [h] at hf; cases hf
    | some k => rfl
  simp only [standingRefusal, hstatus, hexp, hfree]
  simp [Nat.not_le.mpr hhires, Int.not_lt.mpr hfunds]

/-! ## RESERVE, CANCEL_RESERVATION and HOLD_EXPIRY (R66 to R69) -/

theorem reserve_holds {w : Work} {q : Request} {slot : Nat} {c : Card} {b now : Nat}
    (hn : Names w.store (param q 0 7) slot c) (hi : param q 7 1 < 32) (hc : w.store.timer.clock = some now)
    (ht : w.store.tariff.loaded = true) (hd : (stationAt w.store (param q 7 1)).isDefined = true)
    (hs : Standing w.set w.store now c) (hf : (freeHireSlot w.store).isSome = true) (hres : c.reservation = none)
    (hheld : w.store.fleet.reservationsHeld < 512) (hb : chooseUsable w.store (param q 7 1) = some b) :
    reserve w q =
      ({ outcome := .ok
         result := encBike (some b) ++ encDock (dockOfPlace (bikeAt w.store b).place) ++
           encClock (dueAt w.now w.set.reservationHold) },
        w.setHold slot b (param q 7 1) (dueAt w.now w.set.reservationHold)) := by
  have h1 : ¬ (param q 0 7 = Config.serialAbsent ∨ Config.stations ≤ param q 7 1) :=
    not_or.mpr ⟨hn.1, Nat.not_le.mpr hi⟩
  have hcard : cardForReserve w.set w.store (param q 0 7) = .ok (slot, c) := by
    unfold cardForReserve
    rw [hn.2]
  have h2 : ¬ Config.reservations ≤ w.store.fleet.reservationsHeld := Nat.not_le.mpr hheld
  have h3 : ¬ c.reservation.isSome = true := by rw [hres]; decide
  unfold reserve
  dsimp only
  rw [if_neg h1, stationRefusal_none hc ht hd]
  dsimp only
  rw [hcard]
  dsimp only
  rw [standingRefusal_of hc hs hf]
  dsimp only
  rw [if_neg h3, if_neg h2, hb]

theorem cancelReservation_ends {w : Work} {q : Request} {slot : Nat} {c : Card} {r : Reservation}
    (hn : Names w.store (param q 0 7) slot c) (hr : c.reservation = some r) :
    cancelReservation w q = ({ outcome := .ok, result := encReservation (some r) }, w.endHold slot r.bike) := by
  unfold cancelReservation
  rw [if_neg hn.1, hn.2]
  dsimp only
  rw [hr]

/-- HOLD_EXPIRY is a grant to the Timer Unit that ends the hold of its bike. -/
theorem exec_holdExpiry {hub : HubInput} {s : State} {b slot : Nat} {c : Card} {r : Reservation}
    (hg : grantedHead s = some (.holdExpiry b)) (hb : (bikeAt s.store b).heldFor = some slot)
    (hc : cardAt s.store slot = some c) (hr : c.reservation = some r) :
    exec (.holdExpiry hub) s = .next (grantExpiry hub (fun w => w.expireHold b slot r) s) := by
  have hd : dueHold s.store b = some (slot, r) := by
    unfold dueHold
    rw [hb]
    dsimp only
    rw [hc]
    dsimp only
    rw [hr]
    rfl
  change execHoldExpiry hub s = _
  unfold execHoldExpiry
  rw [hg]
  dsimp only
  rw [hd]

/-- Settles O24: the hold is set and ended in three places (`setHold_eq`, `endHold_eq`). -/
theorem reservationsAreHeldAndEnded : Obligations.ReservationsAreHeldAndEnded := by
  refine ⟨fun q s slot c b now ht hn hi hc hl hd hs hf hres hheld hb => ?_, fun q s slot c r ht hn hr => ?_,
    fun hub s b slot c r hx hb hc hr => ?_⟩
  · have hrule := reserve_holds (w := begun s) hn hi hc hl hd hs hf hres hheld hb
    have hnow : (begun s).now = now := by rw [Work.now, begun, hc]; rfl
    rw [hnow] at hrule
    obtain ⟨hst, -, hnotes, htouched⟩ := setHold_eq (w := begun s) (slot := slot) (b := b) (i := param q 7 1)
      (due := dueAt now s.settings.reservationHold) (namedCard_some hn.2).2
    refine completesAt_of ht rfl hrule hnotes (fun i => ?_) (fun i => ?_) (fun st hbut => ?_)
    · change stationAt ((begun s).setHold slot b (param q 7 1) (dueAt now s.settings.reservationHold)).store i = _
      rw [hst]
      rfl
    · simpa [begun] using htouched i
    · exact hbut.eq.trans (by rw [show ((begun s).setHold slot b (param q 7 1)
        (dueAt now (begun s).set.reservationHold)).store = _ from hst]; rfl)
  · have hrule := cancelReservation_ends (w := begun s) hn hr
    obtain ⟨hst, -, hnotes, htouched⟩ := endHold_eq (w := begun s) (slot := slot) (b := r.bike) (namedCard_some hn.2).2
    refine completesAt_of ht rfl hrule hnotes (fun i => ?_) (fun i => ?_) (fun st hbut => ?_)
    · rw [hst]
      rfl
    · simpa [begun] using htouched i
    · exact hbut.eq.trans (by rw [hst]; rfl)
  · obtain ⟨hg, hclean⟩ := hx
    have hc' : cardAt (headTaken s.store) slot = some c := hc
    obtain ⟨hst, -, hnotes, htouched⟩ := endHold_eq (w := ⟨s.settings, headTaken s.store, [], []⟩) (b := b) hc'
    have hserial : serialOf (headTaken s.store) slot = some c.serial := by rw [serialOf, hc']; rfl
    refine lapsesAt_of hclean (exec_holdExpiry hg hb hc hr) rfl ?_ (fun i => ?_) (fun i => ?_) (fun st hbut => ?_)
    · change (Work.endHold _ _ _).notices ++ [Notice.holdExpired (serialOf (headTaken s.store) slot) b r.station] = _
      rw [hnotes, hserial]
      rfl
    · change stationAt (Work.endHold _ _ _).store i = _
      rw [hst]
      rfl
    · exact (htouched i).trans (or_iff_right List.not_mem_nil)
    · refine hbut.eq.trans ?_
      change ({ (Work.endHold _ _ _).store with fleet.stations := st.fleet.stations } : Store) = _
      rw [hst]
      rfl

/-! ## Reading a table that is known as another's -/

section
variable {a b : Store} {k : Nat}

theorem bikeAt_congr (h : b.fleet.bikes = a.fleet.bikes) : bikeAt b k = bikeAt a k := by rw [bikeAt, h]; rfl
theorem dockAt_congr (h : b.fleet.docks = a.fleet.docks) : dockAt b k = dockAt a k := by rw [dockAt, h]; rfl
theorem stationAt_congr (h : b.fleet.stations = a.fleet.stations) : stationAt b k = stationAt a k := by
  rw [stationAt, h]; rfl
theorem cardAt_congr (h : b.cards.cards = a.cards.cards) : cardAt b k = cardAt a k := by rw [cardAt, h]; rfl
theorem hireSlotAt_congr (h : b.hires = a.hires) : hireSlotAt b k = hireSlotAt a k := by rw [hireSlotAt, h]; rfl
theorem ticketSlotAt_congr (h : b.faults.tickets = a.faults.tickets) : ticketSlotAt b k = ticketSlotAt a k := by
  rw [ticketSlotAt, h]; rfl
theorem vanAt_congr (h : b.vans = a.vans) : vanAt b k = vanAt a k := by rw [vanAt, h]; rfl

end

/-! A table known as one with a record written. -/

theorem bikeAt_of_put {a b : Store} {j : Nat} {r : Bike} (h : b.fleet.bikes = (putBike a j r).fleet.bikes) :
    bikeAt b j = r ∧ ∀ k, k ≠ j → bikeAt b k = bikeAt a k :=
  ⟨(bikeAt_congr h).trans (bikeAt_putBike_same _ _ _),
    fun _ hk => (bikeAt_congr h).trans ((bikeAt_putBike _ _ _ _).trans (if_neg hk))⟩

theorem dockAt_of_put {a b : Store} {j : Nat} {r : Dock} (h : b.fleet.docks = (putDock a j r).fleet.docks) :
    dockAt b j = r ∧ ∀ k, k ≠ j → dockAt b k = dockAt a k :=
  ⟨(dockAt_congr h).trans (dockAt_putDock_same _ _ _),
    fun _ hk => (dockAt_congr h).trans ((dockAt_putDock _ _ _ _).trans (if_neg hk))⟩

theorem hireSlotAt_of_put {a b : Store} {j : Nat} {r : HireSlot} (h : b.hires = (putHireSlot a j r).hires) :
    hireSlotAt b j = r ∧ ∀ k, k ≠ j → hireSlotAt b k = hireSlotAt a k :=
  ⟨(hireSlotAt_congr h).trans (hireSlotAt_putHireSlot_same _ _ _),
    fun _ hk => (hireSlotAt_congr h).trans ((hireSlotAt_putHireSlot _ _ _ _).trans (if_neg hk))⟩

/-! ## The close of a hire's card (R38) -/

/-- Two stores with the same card index and the same cards but the one in `slot`. -/
structure ButCard (a b : Store) (slot : Nat) : Prop where
  cards : ∀ k, k ≠ slot → cardAt b k = cardAt a k
  chains : b.cards.chains = a.cards.chains
  free : b.cards.free = a.cards.free

/-- R38: what the close of a card at its last hire leaves of the Card Store, the card having been rewritten as `c`. -/
theorem closeCardAtLast_leaves {w : Work} {s t : Store} {slot : Nat} {c : Card} (hc : cardAt w.store slot = some c)
    (hs : ButCard s w.store slot) (ht : t.cards = (w.closeCardAtLast slot).1.store.cards) :
    LeftWith s t slot c ∧ ∀ k, k ≠ slot → cardAt t k = cardAt s k := by
  obtain ⟨-, -, -, -, hst⟩ := closeCardAtLast_eq hc
  rw [hst] at ht
  unfold LeftWith
  by_cases hclose : ClosesAtLast c
  · rw [if_pos hclose] at ht ⊢
    have hr : Removed s t slot c := removed_congr ht (removed_of_rewritten hc rfl hs.cards
      (fun b => by rw [chainAt, chainAt, hs.chains]) hs.free)
    exact ⟨hr, fun k hk => (hr.1 k).trans (if_neg hk)⟩
  · rw [if_neg hclose] at ht ⊢
    refine ⟨⟨?_, ?_, ?_⟩, fun k hk => ?_⟩
    · rw [cardAt, ht]
      exact hc
    · rw [ht, hs.chains]
    · rw [ht, hs.free]
    · rw [cardAt, ht]
      exact hs.cards k hk

/-- R38: but for the Card Store and the stations, the close of a card leaves every record. -/
theorem closeCardAtLast_store {w : Work} {slot : Nat} {c : Card} (hc : cardAt w.store slot = some c) {st : Store}
    (hb : ButStations (w.closeCardAtLast slot).1.store st) :
    st = { w.store with cards := st.cards, fleet.stations := st.fleet.stations } := by
  have h1 := hb.eq
  rw [(closeCardAtLast_left hc).2] at h1
  rw [← hb.cards] at h1
  exact h1

theorem hire_due {st : Store} {h : Handle} {r : Hire} {x : HireState} (hr : hireAt st h = some r)
    (hx : r.state = x) : dueHire st h x = some r := by
  unfold dueHire
  rw [hr]
  exact if_pos hx

/-! ## RELEASE_WINDOW (R55) -/

theorem exec_releaseWindowExpiry {hub : HubInput} {s : State} {h : Handle} {r : Hire}
    (hg : grantedHead s = some (.releaseWindow h)) (hr : hireAt s.store h = some r) (hx : r.state = .releasing) :
    exec (.releaseWindowExpiry hub) s = .next (grantExpiry hub (fun w => w.lapseRelease h r) s) := by
  change execReleaseWindowExpiry hub s = _
  unfold execReleaseWindowExpiry
  rw [hg]
  dsimp only
  rw [hire_due hr hx]

/-- R55: the work of a lapse before its card is closed. -/
def lapsed (w : Work) (h : Handle) (r : Hire) (c : Card) : Work :=
  (((((w.setCard r.card (leaveCard h r.hold c)).setBike r.bike
    { bikeAt w.store r.bike with hire := none, state := .docked }).setDock r.origin
    { dockAt w.store r.origin with latch := .latched }).freeHire h).setDock r.origin
    { dockAt w.store r.origin with latch := .latched, lastLapse := some ⟨c.serial, w.now⟩ }).raiseNotice
    (.releaseLapsed h (some c.serial) r.bike r.origin)

theorem lapseRelease_eq {w : Work} {h : Handle} {r : Hire} {c : Card} (hc : cardAt w.store r.card = some c) :
    w.lapseRelease h r = ((lapsed w h r c).closeCardAtLast r.card).1 := by
  have hs : serialOf w.store r.card = some c.serial := by rw [serialOf, hc]; rfl
  unfold Work.lapseRelease Work.closeRelease
  dsimp only
  rw [modifyCard_present hc, hs]
  simp only [lapsed, Work.freeHire, setCard_store, bikeAt_putCard, dockAt_putCard, setBike_store, dockAt_putBike,
    setDock_store, setHireSlot_store, dockAt_putHireSlot, dockAt_putDock_same]
  rfl

theorem lapsed_touched {w : Work} {h : Handle} {r : Hire} {c : Card} (hw : w.touched = []) (i : Nat) :
    i ∈ (lapsed w h r c).touched ↔ i ∈ stationsOfBike w.store r.bike ++ stationsOfDock w.store r.origin := by
  have hplace : ∀ p, placeStation (putCard w.store r.card (some (leaveCard h r.hold c))) p = placeStation w.store p :=
    placeStation_congr fun _ => rfl
  simp [lapsed, Work.freeHire, hw, hplace, stationsOfBike, stationsOfDock]

/-- Settles O25. -/
theorem releaseLapses : Obligations.ReleaseLapses := by
  intro hub s h r c now ⟨hg, hclean⟩ hclock hr hx hc c'
  have hc0 : cardAt (headTaken s.store) r.card = some c := hc
  have hnow : (⟨s.settings, headTaken s.store, [], []⟩ : Work).now = now := by
    rw [Work.now, headTaken_clock, hclock]
    rfl
  have hl : cardAt (lapsed ⟨s.settings, headTaken s.store, [], []⟩ h r c).store r.card = some c' :=
    cardAt_putCard_same _ _ _
  have hbutcard : ButCard s.store (lapsed ⟨s.settings, headTaken s.store, [], []⟩ h r c).store r.card :=
    ⟨fun k hk => (cardAt_putCard _ _ _ _).trans (if_neg hk), rfl, rfl⟩
  obtain ⟨-, -, htouched, hnotices, -⟩ := closeCardAtLast_eq hl
  refine lapsesAt_of hclean (exec_releaseWindowExpiry hg hr hx) (lapseRelease_eq hc0) hnotices (fun i => ?_)
    (fun i => ?_) (fun st hb => ?_)
  · rw [(closeCardAtLast_left hl).2]
    rfl
  · rw [htouched]
    exact lapsed_touched rfl i
  · obtain ⟨hleft, hothers⟩ := closeCardAtLast_leaves (t := st) hl hbutcard hb.cards
    refine ⟨hleft, ?_⟩
    have he := closeCardAtLast_store hl hb
    obtain ⟨hbike, hbikes⟩ := bikeAt_of_put (a := s.store) (b := st) (j := r.bike)
      (r := { bikeAt s.store r.bike with hire := none, state := .docked }) (by rw [he]; rfl)
    obtain ⟨hdock, hdocks⟩ := dockAt_of_put (b := st) (a := putDock s.store r.origin
        { dockAt s.store r.origin with latch := .latched }) (j := r.origin)
      (r := { dockAt s.store r.origin with latch := .latched, lastLapse := some ⟨c.serial, now⟩ })
      (by rw [he, ← hnow]; rfl)
    obtain ⟨hhire, hhires⟩ := hireSlotAt_of_put (a := s.store) (b := st) (j := h.slot)
      (r := ⟨((hireSlotAt s.store h.slot).gen + 1) % 256, none⟩) (by rw [he]; rfl)
    refine ⟨hbike, hdock, hhire, by rw [he]; rfl, by rw [he, ← hclock]; rfl, by rw [he]; rfl, by rw [he]; rfl, ?_⟩
    exact
    { bikes := fun k hk => hbikes k (List.ne_of_not_mem_cons hk)
      docks := fun k hk => (hdocks k (List.ne_of_not_mem_cons hk)).trans
        ((dockAt_putDock _ _ _ _).trans (if_neg (List.ne_of_not_mem_cons hk)))
      cards := fun k hk => hothers k (List.ne_of_not_mem_cons hk)
      hires := fun k hk => hhires k (List.ne_of_not_mem_cons hk)
      tickets := fun k _ => by rw [he]; rfl
      vans := fun k _ => by rw [he]; rfl
      tariff := by rw [he]; rfl
      captured := by rw [he]; rfl }

end Sys2Proof.Proofs
end

section
/-! PROOF. Overdue and lost hires (O26) and the release (O23). -/

namespace Sys2Proof.Proofs

open Sys2Proof Sys2Proof.Machine Sys2Proof.Laws

-- One thread: the whole text is compiled in one process, whose threads the check limits.
set_option Elab.async false

/-! ## OVERDUE and LOST (R61, R62) -/

theorem exec_overdueExpiry {hub : HubInput} {s : State} {h : Handle} {r : Hire}
    (hg : grantedHead s = some (.overdue h)) (hr : hireAt s.store h = some r) (hx : r.state = .riding) :
    exec (.overdueExpiry hub) s = .next (grantExpiry hub (fun w => w.makeOverdue h r) s) := by
  change execOverdueExpiry hub s = _
  unfold execOverdueExpiry
  rw [hg]
  dsimp only
  rw [hire_due hr hx]

theorem exec_lostExpiry {hub : HubInput} {s : State} {h : Handle} {r : Hire} {c : Card}
    (hg : grantedHead s = some (.lost h)) (hr : hireAt s.store h = some r) (hx : r.state = .overdue)
    (hc : cardAt s.store r.card = some c) :
    exec (.lostExpiry hub) s = .next (grantExpiry hub (fun w => w.loseHire h r c) s) := by
  change execLostExpiry hub s = _
  unfold execLostExpiry
  rw [hg]
  dsimp only
  rw [hire_due hr hx]
  dsimp only
  rw [hc]

theorem charge_balance (balance amount : Int) : (charge balance amount).1 = chargedBalance balance amount := by
  unfold charge chargedBalance
  dsimp only
  split <;> simp only [Config.balanceMax] at * <;> omega

theorem charge_writeOff (balance amount : Int) : (charge balance amount).2 = writtenOff balance amount := by
  unfold charge writtenOff
  dsimp only
  split <;> simp only [Config.balanceMax] at * <;> omega

/-- R31: the suspension test of a card charged down to `balance`. -/
theorem suspensionTest_charged {t : Tariff} {c d : Card} (hs : d.status = c.status) (hk : d.cls = c.cls) :
    suspensionTest t d = { d with status := statusAfterCharge t c d.balance } := by
  unfold suspensionTest statusAfterCharge
  rw [hs, hk]
  split
  · rfl
  · rw [← hs, ← hk]

/-- R62: the card charged the lost fee and left by its hire. -/
theorem lostCard_eq (t : Tariff) (h : Handle) (r : Hire) (c : Card) :
    lostCard t h r c =
      { c with
        balance := chargedBalance c.balance t.lostFee
        openHires := c.openHires.filter (· ≠ h), holdTotal := c.holdTotal - r.hold
        status := statusAfterCharge t c (chargedBalance c.balance t.lostFee) } := by
  unfold lostCard
  rw [suspensionTest_charged (c := c) (by rfl) (by rfl)]
  simp only [leaveCard, charge_balance]

/-- R62: the work of a loss before its card is closed. -/
def lost (w : Work) (h : Handle) (r : Hire) (c : Card) : Work :=
  let fee := w.store.tariff.active.lostFee
  (((w.setCard r.card (lostCard w.store.tariff.active h r c)).freeHire h).setBike r.bike
    { bikeAt w.store r.bike with hire := none, state := .missing, place := none }).raiseNotice
    (.bikeLost r.bike (some c.serial) h fee (writtenOff c.balance fee) (chargedBalance c.balance fee))

theorem loseHire_eq (w : Work) (h : Handle) (r : Hire) (c : Card) :
    w.loseHire h r c = ((lost w h r c).closeCardAtLast r.card).1 := by
  unfold Work.loseHire lost
  dsimp only
  rw [← charge_balance, ← charge_writeOff]
  rfl

theorem lost_touched {w : Work} {h : Handle} {r : Hire} {c : Card} (hw : w.touched = []) (i : Nat) :
    i ∈ (lost w h r c).touched ↔ i ∈ stationsOfBike w.store r.bike := by
  have hplace : ∀ p, placeStation ((w.setCard r.card (lostCard w.store.tariff.active h r c)).freeHire h).store p =
      placeStation w.store p := placeStation_congr fun _ => rfl
  have htouched : ((w.setCard r.card (lostCard w.store.tariff.active h r c)).freeHire h).touched = [] := hw
  simp only [lost, raiseNotice_touched, setBike_touched, hplace, htouched]
  simp [stationsOfBike, placeStation, Work.freeHire]

/-- Settles O26: the charge is `charge_balance` and the close of the card `closeCardAtLast_leaves`. -/
theorem overdueThenLost : Obligations.OverdueThenLost := by
  refine ⟨fun hub s h r start ⟨hg, hclean⟩ hr hx hstart => ?_, fun hub s h r c ⟨hg, hclean⟩ hr hx hc => ?_⟩
  · have hl := lapses_of (w := Work.makeOverdue ⟨s.settings, headTaken s.store, [], []⟩ h r)
      (P := fun t => t =
         { putHireSlot s.store h.slot
             { hireSlotAt s.store h.slot with hire := some { r with state := .overdue } } with
           timer.deadlines := insertEntry ⟨.lost h, heldAt (start + s.settings.lostPoint)⟩
            s.store.timer.deadlines.tail })
      hclean (exec_overdueExpiry hg hr hx) rfl rfl (by unfold Work.makeOverdue; rw [hstart]; rfl)
    have hnotes : (Work.makeOverdue ⟨s.settings, headTaken s.store, [], []⟩ h r).notices =
        [.hireOverdue h (serialOf s.store r.card) r.bike start (heldAt (start + s.settings.lostPoint))] := by
      unfold Work.makeOverdue
      rw [hstart]
      rfl
    rw [hnotes] at hl
    exact hl
  · have hl : cardAt (lost ⟨s.settings, headTaken s.store, [], []⟩ h r c).store r.card = some _ :=
      (cardAt_putCard_same s.store _ _).trans (congrArg some (lostCard_eq s.store.tariff.active h r c))
    have hbutcard : ButCard s.store (lost ⟨s.settings, headTaken s.store, [], []⟩ h r c).store r.card :=
      ⟨fun k hk => (cardAt_putCard _ _ _ _).trans (if_neg hk), rfl, rfl⟩
    obtain ⟨-, -, htouched, hnotices, -⟩ := closeCardAtLast_eq hl
    refine lapsesAt_of hclean (exec_lostExpiry hg hr hx hc) (loseHire_eq _ h r c) hnotices (fun i => ?_)
      (fun i => ?_) (fun st hb => ?_)
    · rw [(closeCardAtLast_left hl).2]
      rfl
    · rw [htouched]
      exact lost_touched rfl i
    · obtain ⟨hleft, hothers⟩ := closeCardAtLast_leaves (t := st) hl hbutcard hb.cards
      refine ⟨hleft, ?_⟩
      have he := closeCardAtLast_store hl hb
      obtain ⟨hbike, hbikes⟩ := bikeAt_of_put (a := s.store) (b := st) (j := r.bike)
        (r := { bikeAt s.store r.bike with hire := none, state := .missing, place := none }) (by rw [he]; rfl)
      obtain ⟨hhire, hhires⟩ := hireSlotAt_of_put (a := s.store) (b := st) (j := h.slot)
        (r := ⟨((hireSlotAt s.store h.slot).gen + 1) % 256, none⟩) (by rw [he]; rfl)
      refine ⟨hbike, hhire, by rw [he]; rfl, by rw [he]; rfl, by rw [he]; rfl, by rw [he]; rfl, ?_⟩
      exact
      { bikes := fun k hk => hbikes k (List.ne_of_not_mem_cons hk)
        docks := fun k _ => dockAt_congr (by rw [he]; rfl)
        cards := fun k hk => hothers k (List.ne_of_not_mem_cons hk)
        hires := fun k hk => hhires k (List.ne_of_not_mem_cons hk)
        tickets := fun k _ => by rw [he]; rfl
        vans := fun k _ => by rw [he]; rfl
        tariff := by rw [he]; rfl
        captured := by rw [he]; rfl }

/-! ## HIRE_RELEASE (R51 to R54) -/

/-- R54: the reservation on bike `b` for the card in `slot`, where it is held for it, ends. -/
def dropHold (w : Work) (slot b : Nat) : Work :=
  if (bikeAt w.store b).heldFor = some slot then w.endHold slot b else w

/-- What `dropHold` leaves: the card and the bike without the hold, and the count and the list where there was one. -/
structure HoldDropped (a w : Work) (slot b : Nat) (c : Card) : Prop where
  card : cardAt w.store slot =
    some { c with reservation := if (bikeAt a.store b).heldFor = some slot then none else c.reservation }
  cards : ∀ k, k ≠ slot → cardAt w.store k = cardAt a.store k
  index : SameIndex a.store w.store
  bike : bikeAt w.store b =
    { bikeAt a.store b with
      heldFor := if (bikeAt a.store b).heldFor = some slot then none else (bikeAt a.store b).heldFor }
  bikes : ∀ k, k ≠ b → bikeAt w.store k = bikeAt a.store k
  rest : w.store =
    { a.store with
      fleet.bikes := w.store.fleet.bikes, cards := w.store.cards
      fleet.reservationsHeld :=
        if (bikeAt a.store b).heldFor = some slot then a.store.fleet.reservationsHeld - 1
        else a.store.fleet.reservationsHeld
      timer.deadlines :=
        if (bikeAt a.store b).heldFor = some slot then dropEntry (.holdExpiry b) a.store.timer.deadlines
        else a.store.timer.deadlines }
  notices : w.notices = a.notices
  touched : ∀ i, i ∈ w.touched → i ∈ a.touched ∨ i ∈ stationsOfBike a.store b

theorem dropHold_dropped {w : Work} {slot b : Nat} {c : Card} (hc : cardAt w.store slot = some c) :
    HoldDropped w (dropHold w slot b) slot b c := by
  unfold dropHold
  by_cases hh : (bikeAt w.store b).heldFor = some slot
  · obtain ⟨hst, -, hnotes, htouched⟩ := endHold_eq (b := b) hc
    rw [if_pos hh]
    obtain ⟨hbike, hbikes⟩ := bikeAt_of_put (a := w.store) (b := (w.endHold slot b).store) (j := b)
      (r := { bikeAt w.store b with heldFor := none }) (by rw [hst]; rfl)
    have hcards : (w.endHold slot b).store.cards =
        (putCard w.store slot (some { c with reservation := none })).cards := by rw [hst]; rfl
    exact
    { card := (cardAt_congr (congrArg CardStore.cards hcards)).trans
        ((cardAt_putCard_same _ _ _).trans (by rw [if_pos hh]))
      cards := fun k hk => (cardAt_congr (congrArg CardStore.cards hcards)).trans
        ((cardAt_putCard _ _ _ _).trans (if_neg hk))
      index := ⟨by rw [hcards]; rfl, by rw [hcards]; rfl⟩
      bike := hbike.trans (by rw [if_pos hh])
      bikes := hbikes
      rest := by rw [if_pos hh, if_pos hh, hst]; rfl
      notices := hnotes
      touched := fun i => (htouched i).mp }
  · rw [if_neg hh]
    exact
    { card := hc.trans (by rw [if_neg hh])
      cards := fun _ _ => rfl
      index := ⟨rfl, rfl⟩
      bike := by rw [if_neg hh]
      bikes := fun _ _ => rfl
      rest := by rw [if_neg hh, if_neg hh]
      notices := rfl
      touched := fun _ => Or.inl }

/-- R53: the card, the bike and the latch of a hire, once a hold on the bike has ended. -/
def latchOpened (w : Work) (h : Handle) (slot : Nat) (hold : Int) (b d due : Nat) : Work :=
  let w := w.modifyCard slot
    (fun c => { c with openHires := c.openHires ++ [h], holdTotal := c.holdTotal + hold })
  let w := w.setBike b { bikeAt w.store b with state := .releasing, hire := some h }
  (w.setDock d { dockAt w.store d with latch := .openForHire h }).addEntry (.releaseWindow h) due

theorem openHire_eq {w : Work} {k slot : Nat} {c : Card} {b d : Nat} {hold : Int} {h : Handle} {now due : Nat}
    (hhold : (classParams w.store.tariff.active c.cls).hold = hold) (hh : ⟨k, (hireSlotAt w.store k).gen⟩ = h)
    (hnow : w.now = now) (hdue : dueAt now w.set.releaseWindow = due) :
    w.openHire k slot c b d =
      (latchOpened (dropHold (w.setHire h ⟨.releasing, slot, b, d, now, none, hold, c.cls⟩) slot b) h slot hold b d due,
        ⟨h, d, b, hold, due, availableFunds c - hold⟩) := by
  unfold Work.openHire
  dsimp only
  rw [hhold, hh, hnow, hdue]
  rfl

/-- The work of `latchOpened` where the card stands. -/
theorem latchOpened_store {w : Work} {h : Handle} {slot : Nat} {hold : Int} {b d due : Nat} {c : Card}
    (hc : cardAt w.store slot = some c) :
    (latchOpened w h slot hold b d due).store =
      { putDock (putBike (putCard w.store slot
          (some { c with openHires := c.openHires ++ [h], holdTotal := c.holdTotal + hold })) b
          { bikeAt w.store b with state := .releasing, hire := some h }) d
          { dockAt w.store d with latch := .openForHire h } with
        timer.deadlines := insertEntry ⟨.releaseWindow h, due⟩ w.store.timer.deadlines } := by
  unfold latchOpened
  rw [modifyCard_present hc]
  rfl

theorem latchOpened_touched {w : Work} {h : Handle} {slot : Nat} {hold : Int} {b d due : Nat} {c : Card}
    (hc : cardAt w.store slot = some c) (i : Nat) :
    i ∈ (latchOpened w h slot hold b d due).touched ↔
      i ∈ w.touched ∨ i ∈ stationsOfBike w.store b ∨ i ∈ stationsOfDock w.store d := by
  have hplace : ∀ p x, placeStation (putCard w.store slot x) p = placeStation w.store p :=
    fun p x => placeStation_congr (fun _ => rfl) p
  unfold latchOpened
  rw [modifyCard_present hc]
  simp [hplace, stationsOfBike, stationsOfDock]

theorem latchOpened_notices {w : Work} {h : Handle} {slot : Nat} {hold : Int} {b d due : Nat} {c : Card}
    (hc : cardAt w.store slot = some c) : (latchOpened w h slot hold b d due).notices = w.notices := by
  unfold latchOpened
  rw [modifyCard_present hc]
  rfl

theorem cardForRelease_of {s : State} {serial slot : Nat} {c : Card} {st : Store} (h : ReleaseCard s serial slot c st) :
    cardForRelease s.settings s.store serial = .ok (slot, c, st) := by
  obtain ⟨-, ⟨hn, rfl⟩ | ⟨hn, hf, rfl, rest, hfree, rfl⟩⟩ := h
  · unfold cardForRelease
    rw [hn]
  · unfold cardForRelease
    rw [hn]
    dsimp only
    rw [absentCard_accepted hf]
    dsimp only
    rw [createCard_top hfree]
    rfl

/-- The card of a release stands in its slot, and only the Card Store differs from the records before. -/
theorem releaseCard_store {s : State} {serial slot : Nat} {c : Card} {st : Store} (h : ReleaseCard s serial slot c st) :
    cardAt st slot = some c ∧ st = { s.store with cards := st.cards } := by
  obtain ⟨-, ⟨hn, rfl⟩ | ⟨-, -, -, rest, -, rfl⟩⟩ := h
  · exact ⟨(namedCard_some hn).2, rfl⟩
  · exact ⟨(cardAt_congr (a := putCard { s.store with cards.free := rest } slot (some c)) rfl).trans
      (cardAt_putCard_same _ _ _), rfl⟩

theorem hireRelease_opens {s : State} {q : Request} {slot : Nat} {c : Card} {st : Store} {b d k now : Nat}
    (hcard : ReleaseCard s (param q 0 7) slot c st) (hi : param q 7 1 < 32)
    (hd : param q 8 2 = 65535 ∨ param q 8 2 < 1024) (hclock : s.store.timer.clock = some now)
    (hl : s.store.tariff.loaded = true) (hdef : (stationAt s.store (param q 7 1)).isDefined = true)
    (hs : Standing s.settings st now c) (hk : freeHireSlot st = some k)
    (hb : chooseRelease st slot c (param q 7 1) (dockParam (param q 8 2)) = .ok b)
    (hplace : (bikeAt st b).place = some (.dock d)) :
    hireRelease (begun s) q =
      ({ outcome := .ok, result := (Work.openHire ⟨s.settings, st, [], []⟩ k slot c b d).2.record },
        (Work.openHire ⟨s.settings, st, [], []⟩ k slot c b d).1) := by
  have hgood : ¬ (param q 0 7 = Config.serialAbsent ∨ Config.stations ≤ param q 7 1 ∨
      (param q 8 2 ≠ absent2 ∧ Config.docks ≤ param q 8 2)) := by
    rintro (h | h | ⟨h1, h2⟩)
    · exact hcard.1 h
    · exact absurd hi (Nat.not_lt.mpr h)
    · exact hd.elim h1 (fun h => absurd h (Nat.not_lt.mpr h2))
  have hst : st.timer.clock = some now := by rw [(releaseCard_store hcard).2]; exact hclock
  have hstand := standingRefusal_of (w := ⟨s.settings, st, [], []⟩) hst hs (by rw [hk]; rfl)
  change hireRelease ⟨s.settings, s.store, [], []⟩ q = _
  unfold hireRelease
  dsimp only
  rw [if_neg hgood, stationRefusal_none hclock hl hdef]
  dsimp only
  rw [cardForRelease_of hcard]
  dsimp only
  rw [hstand]
  dsimp only
  rw [hb, hk]
  dsimp only
  rw [hplace]
  rfl

/-- Settles O23: the hold on the bike is dropped (`dropHold_dropped`), then its latch is opened. -/
theorem releaseOpensHire : Obligations.ReleaseOpensHire := by
  intro q s slot c st b d k now ht hcard hi hd hclock hl hdef hs hk hb hplace hold h due held
  obtain ⟨hc, hst⟩ := releaseCard_store hcard
  have hbikeAt : ∀ j, bikeAt st j = bikeAt s.store j := fun j => bikeAt_congr (by rw [hst])
  have hdockAt : ∀ j, dockAt st j = dockAt s.store j := fun j => dockAt_congr (by rw [hst])
  have hslotAt : ∀ j, hireSlotAt st j = hireSlotAt s.store j := fun j => hireSlotAt_congr (by rw [hst])
  have hnow : Work.now ⟨s.settings, st, [], []⟩ = now := by
    change st.timer.clock.getD 0 = now
    rw [hst, hclock]
    rfl
  -- the work with the hire slot written, and with the hold dropped
  obtain ⟨w, hw⟩ : ∃ w, w = (Work.setHire ⟨s.settings, st, [], []⟩ h
    ⟨.releasing, slot, b, d, now, none, hold, c.cls⟩) := ⟨_, rfl⟩
  have hheld : (bikeAt w.store b).heldFor = (bikeAt s.store b).heldFor := by
    rw [hw, ← hbikeAt]
    rfl
  have hdrop : HoldDropped w (dropHold w slot b) slot b c := dropHold_dropped (by rw [hw]; exact hc)
  have hopen := openHire_eq (w := ⟨s.settings, st, [], []⟩) (k := k) (slot := slot) (c := c) (b := b) (d := d)
    (hold := hold) (h := h) (due := due) (by rw [hst]) (by rw [hslotAt]) hnow rfl
  rw [← hw] at hopen
  have hrule := hireRelease_opens hcard hi hd hclock hl hdef hs hk hb (by rw [hbikeAt]; exact hplace)
  rw [hopen] at hrule
  obtain ⟨v, hv⟩ : ∃ v, v = dropHold w slot b := ⟨_, rfl⟩
  rw [← hv] at hdrop hrule
  have hrest := hdrop.rest
  rw [hheld] at hrest
  have hstation : ∀ x, (dockAt v.store x).station = (dockAt s.store x).station := fun x => by
    rw [← hdockAt, dockAt_congr (a := st) (by rw [hrest, hw]; rfl)]
  refine completesAt_of ht rfl hrule ((latchOpened_notices hdrop.card).trans ?_) (fun i => ?_) (fun i => ?_)
    (fun t hbut => ?_)
  · rw [hdrop.notices, hw]
    rfl
  · rw [latchOpened_store hdrop.card]
    exact stationAt_congr (by rw [hrest, hw]; rw [hst]; rfl)
  · rw [latchOpened_touched hdrop.card]
    have hv_b : stationsOfBike v.store b = stationsOfDock s.store d := by
      rw [stationsOfBike, hdrop.bike, hw, ← stationsOfDock_congr hstation d]
      change placeStation v.store (bikeAt st b).place = _
      rw [hbikeAt, hplace]
      rfl
    have hw_b : stationsOfBike w.store b = stationsOfDock s.store d := by
      rw [hw]
      change placeStation st (bikeAt st b).place = _
      rw [hbikeAt, hplace]
      exact congrArg (fun x : Dock => x.station.toList) (hdockAt d)
    rw [hv_b, stationsOfDock_congr hstation d]
    refine ⟨fun hi => ?_, fun hi => Or.inr (Or.inl hi)⟩
    rcases hi with hi | hi | hi
    · rcases hdrop.touched i hi with hi | hi
      · rw [hw] at hi
        exact absurd hi List.not_mem_nil
      · rwa [hw_b] at hi
    · exact hi
    · exact hi
  · have he := hbut.eq
    rw [latchOpened_store hdrop.card] at he
    have hvs : v.store =
        { putHireSlot st k ⟨(hireSlotAt s.store k).gen, some ⟨.releasing, slot, b, d, now, none, hold, c.cls⟩⟩ with
          fleet.bikes := v.store.fleet.bikes, cards := v.store.cards
          fleet.reservationsHeld :=
            if held then st.fleet.reservationsHeld - 1 else st.fleet.reservationsHeld
          timer.deadlines :=
            if held then dropEntry (.holdExpiry b) st.timer.deadlines else st.timer.deadlines } := by
      rw [hrest, hw, ← hslotAt]
      rfl
    obtain ⟨hbike, hbikes⟩ := bikeAt_of_put (a := v.store) (b := t) (j := b)
      (r := { bikeAt v.store b with state := .releasing, hire := some h }) (by rw [he]; rfl)
    obtain ⟨hdock, hdocks⟩ := dockAt_of_put (a := s.store) (b := t) (j := d)
      (r := { dockAt v.store d with latch := .openForHire h }) (by rw [he, hvs, hst]; rfl)
    obtain ⟨hhire, hhires⟩ := hireSlotAt_of_put (a := st) (b := t) (j := k)
      (r := ⟨(hireSlotAt s.store k).gen, some ⟨.releasing, slot, b, d, now, none, hold, c.cls⟩⟩)
      (by rw [he, hvs]; rfl)
    have hcards : ∀ x, cardAt t x = cardAt (putCard v.store slot _) x := fun x => cardAt_congr (by rw [he]; rfl)
    have hbikev : bikeAt w.store b = bikeAt s.store b := (bikeAt_congr (by rw [hw]; rfl)).trans (hbikeAt b)
    refine ⟨hhire, ?_, ?_, ?_, ?_, ?_, ?_, ?_, ?_, ?_⟩
    · rw [hcards, cardAt_putCard_same, hbikev]
    · rw [hbike, hdrop.bike, hbikev]
    · rw [hdock, dockAt_congr (a := st) (b := v.store) (by rw [hvs]; rfl), hdockAt]
    · rw [he, hvs, hst]
    · rw [he, hvs, hst]
      rfl
    · rw [he, hvs, hst]
      exact hclock
    · have hindex : SameIndex st v.store := by
        obtain ⟨h1, h2⟩ := hdrop.index
        rw [hw] at h1 h2
        exact ⟨h1, h2⟩
      rw [SameIndex, he]
      exact hindex
    · rw [SameWaiting, he, hvs, hst]
      rfl
    · exact
      { bikes := fun j hj => (hbikes j (List.ne_of_not_mem_cons hj)).trans
          ((hdrop.bikes j (List.ne_of_not_mem_cons hj)).trans (bikeAt_congr (by rw [hw]; rfl)))
        docks := fun j hj => (hdocks j (List.ne_of_not_mem_cons hj)).trans (hdockAt j).symm
        cards := fun j hj => (hcards j).trans (((cardAt_putCard _ _ _ _).trans (if_neg (List.ne_of_not_mem_cons hj))).trans
          ((hdrop.cards j (List.ne_of_not_mem_cons hj)).trans (by rw [hw]; rfl)))
        hires := fun j hj => hhires j (List.ne_of_not_mem_cons hj)
        tickets := fun j _ => ticketSlotAt_congr (by rw [he, hvs]; rfl)
        vans := fun j _ => vanAt_congr (by rw [he, hvs]; rfl)
        tariff := by rw [he, hvs]; rfl
        captured := by rw [he, hvs]; rfl }

end Sys2Proof.Proofs
end

section
/-! PROOF. Fares and the tariff (O27 to O30). -/

namespace Sys2Proof.Proofs

open Sys2Proof Sys2Proof.Machine Sys2Proof.Laws

-- One thread: the whole text is compiled in one process, whose threads the check limits.
set_option Elab.async false

/-! ## The fare computation (R80 to R87) -/

theorem ceilDiv_le_iff {a b c : Nat} (hb : 0 < b) : ceilDiv a b ≤ c ↔ a ≤ b * c := by
  rw [ceilDiv, Nat.div_le_iff_le_mul_add_pred hb]
  omega

theorem computeFare_waived {set : Settings} {t : Tariff} {c : Card} {i : FareInput}
    (h : i.accepted = true ∧ i.stop - i.start ≤ t.waiverWindow) : computeFare set t c i = waivedFare c := if_pos h

/-- The fare of a hire that is not waived, its stages written out. -/
theorem computeFare_charged {set : Settings} {t : Tariff} {c : Card} {i : FareInput}
    (h : ¬ (i.accepted = true ∧ i.stop - i.start ≤ t.waiverWindow)) :
    let minutes := billableMinutes t (i.stop - i.start)
    let before := fareBeforeCap set t i minutes
    let spent := if c.capDay = dayNumber set i.stop then c.daySpent else 0
    let cap := (classParams t i.cls).dailyCap
    let charged := if cap = 0 then before else min before (cap - spent)
    let minor := (c.carry + charged) / 256
    computeFare set t c i =
      ⟨minutes, before, charged, minor, (charge c.balance (minor : Nat)).2, (charge c.balance (minor : Nat)).1,
        (c.carry + charged) % 256, dayNumber set i.stop, min (spent + charged) 16777215, false⟩ := if_neg h

/-- R87: a charge takes the balance down to its bound, and gives what it did not take. -/
theorem charge_eq (balance amount : Int) :
    charge balance amount =
      (if balance - amount < -1000000 then -1000000 else balance - amount,
        if balance - amount < -1000000 then -1000000 - (balance - amount) else 0) := by
  by_cases h : balance - amount < -1000000 <;> simp [charge, Config.balanceMax, h]

/-- R81: the billable minutes are the least multiple of the billing step that covers the time beyond the grace. -/
theorem billableMinutes_least {t : Tariff} (h : 1 ≤ t.billingStep) (d : Nat) :
    t.billingStep ∣ billableMinutes t d ∧ d - t.grace ≤ 60 * billableMinutes t d ∧
      ∀ m, t.billingStep ∣ m → d - t.grace ≤ 60 * m → billableMinutes t d ≤ m := by
  unfold billableMinutes
  refine ⟨Nat.dvd_mul_left _ _, ?_, ?_⟩
  · refine (ceilDiv_le_iff (by decide)).mp ?_
    rw [Nat.mul_comm]
    exact (ceilDiv_le_iff h).mp (Nat.le_refl _)
  · rintro m ⟨n, rfl⟩ hm
    rw [Nat.mul_comm]
    exact Nat.mul_le_mul_left _ ((ceilDiv_le_iff h).mpr ((ceilDiv_le_iff (by decide)).mpr hm))

/-- Settles O27: the stages of `computeFare_charged`. -/
theorem fareStages : Obligations.FareStages := by
  intro set t c i hstep hw f d sum
  have hf : f = _ := computeFare_charged hw
  refine ⟨?_, ?_, ?_⟩
  · rw [hf]
    exact billableMinutes_least hstep d
  · rw [show sum = c.carry + f.charged from rfl, hf]
    exact ⟨rfl, rfl⟩
  · rw [hf, charge_eq]
    exact ⟨rfl, rfl⟩

/-- Settles O28. -/
theorem waiverAndCap : Obligations.WaiverAndCap := by
  constructor
  · intro set t c i hw f before cap
    have hf : f = _ := computeFare_charged hw
    rw [hf]
    refine ⟨rfl, rfl, fun h0 => if_pos h0, fun hpos => ?_⟩
    have hcharged : f.charged = min f.before (cap - before) := by
      rw [hf]
      exact if_neg (Nat.ne_of_gt hpos)
    rw [← hf, hcharged]
    exact ⟨rfl, fun hle => by omega⟩
  · intro set t c i
    by_cases hw : i.accepted = true ∧ i.stop - i.start ≤ t.waiverWindow
    · rw [computeFare_waived hw]
      exact ⟨iff_of_true rfl hw, fun _ => rfl⟩
    · rw [computeFare_charged hw]
      exact ⟨iff_of_false Bool.false_ne_true hw, fun h => absurd h Bool.false_ne_true⟩

/-! ## Fare curves (R74) -/

/-- The fare at `x` on the line through the knots `k` and `l`, read from the position `p` and the value `v`. -/
def onLine (p v x : Nat) (k l : Knot) : Nat := v + (x - p) * (l.value - k.value) / (l.pos - k.pos)

/-- Between two knots the line of the segment stays below its end. -/
theorem onLine_le {x : Nat} {k l : Knot} (hp : x < l.pos) (hv : k.value ≤ l.value) :
    onLine k.pos k.value x k l ≤ l.value := by
  have hdiv : (x - k.pos) * (l.value - k.value) / (l.pos - k.pos) ≤ l.value - k.value :=
    Nat.div_le_of_le_mul (Nat.mul_le_mul_right _ (by omega))
  unfold onLine
  omega

theorem curveFrom_between {rest : List Knot} {x : Nat} {k l : Knot} {j : Nat} {m : Knot}
    (hr : (m :: rest).Pairwise (fun k l => k.pos < l.pos ∧ k.value ≤ l.value))
    (hk : (m :: rest)[j]? = some k) (hl : (m :: rest)[j + 1]? = some l) (hkx : k.pos ≤ x) (hxl : x < l.pos) :
    curveFrom m.pos m.value rest x = onLine k.pos k.value x k l := by
  induction rest generalizing m j with
  | nil => cases hl
  | cons n rest ih =>
    obtain ⟨hm, hrest⟩ := List.pairwise_cons.mp hr
    cases j with
    | zero =>
      obtain rfl : m = k := Option.some.inj hk
      obtain rfl : n = l := Option.some.inj hl
      exact if_pos hxl
    | succ j =>
      have hnk : n.pos ≤ k.pos := by
        rcases List.mem_cons.mp (List.mem_of_getElem? (show (n :: rest)[j]? = some k from hk)) with rfl | hmem
        · exact Nat.le_refl _
        · exact Nat.le_of_lt ((List.pairwise_cons.mp hrest).1 k hmem).1
      have hne : rest ≠ [] := by
        rintro rfl
        cases hl
      rw [curveFrom, if_neg (by omega), if_neg hne]
      exact ih hrest hk hl

theorem curveFrom_past {rest : List Knot} {x : Nat} {k l m : Knot}
    (hr : (m :: rest).Pairwise (fun k l => k.pos < l.pos ∧ k.value ≤ l.value))
    (hk : (m :: rest)[(m :: rest).length - 2]? = some k) (hl : (m :: rest)[(m :: rest).length - 1]? = some l)
    (hne : rest ≠ []) (hx : l.pos ≤ x) : curveFrom m.pos m.value rest x = onLine l.pos l.value x k l := by
  induction rest generalizing m with
  | nil => exact absurd rfl hne
  | cons n rest ih =>
    obtain ⟨hm, hrest⟩ := List.pairwise_cons.mp hr
    have hnl : n.pos ≤ l.pos := by
      rcases List.mem_cons.mp (List.mem_of_getElem? (show (n :: rest)[rest.length]? = some l from hl)) with rfl | hmem
      · exact Nat.le_refl _
      · exact Nat.le_of_lt ((List.pairwise_cons.mp hrest).1 l hmem).1
    rw [curveFrom, if_neg (by omega)]
    cases rest with
    | nil =>
      obtain rfl : m = k := Option.some.inj hk
      obtain rfl : n = l := Option.some.inj hl
      exact if_pos rfl
    | cons o rest =>
      rw [if_neg (List.cons_ne_nil _ _)]
      exact ih hrest hk hl (List.cons_ne_nil _ _)

/-- Settles O29: the walk along the knots stops at the segment of `x`, or at the last. -/
theorem curveReadsBetweenKnots : Obligations.CurveReadsBetweenKnots := by
  rintro curve x ⟨⟨hcount, -⟩, -, hrising, hranges⟩
  match curve with
  | [] => cases hcount
  | m :: rest =>
    refine ⟨fun j k l hk hl hkx hxl => ?_, fun k l hk hl hx => ?_⟩
    · have hvalue := (List.pairwise_iff_getElem.mp hrising) j (j + 1)
      obtain ⟨hj, rfl⟩ := List.getElem?_eq_some_iff.mp hk
      obtain ⟨hj', rfl⟩ := List.getElem?_eq_some_iff.mp hl
      have hle := onLine_le hxl (hvalue hj hj' (Nat.lt_succ_self j)).2
      have hmax := (hranges _ (List.getElem_mem hj')).2
      rw [curveFare, curveFrom_between hrising hk hl hkx hxl]
      exact Nat.min_eq_left (Nat.le_trans hle hmax)
    · rw [curveFare, curveFrom_past hrising hk hl (by rintro rfl; simp at hcount) hx]
      rfl

/-! ## TARIFF_LOAD (R76 to R79) -/

/-- On a clean bus TARIFF_LOAD answers what the installation of its block answers. -/
theorem tariffLoad_completes {q : Request} {s : State} (h : Takes 20#8 q s) (hlen : 300 ≤ param q 4 2)
    {st : Store} {r : Reply}
    (hi : installTariff s.settings.checking s.store (memRead (takenMem 20#8 q s) (param q 0 4) 300) = (st, r)) :
    Completes (.tariffLoad q) 20#8 q s r [] (fun t => t = st) := by
  obtain ⟨hst, ha⟩ := grantRequest_answered h (rule := tariffLoad) (st := st) (r := r) (l := []) (fun u hu => by
    refine ⟨u.hub.answers.tail, hu.answers.tail, ?_⟩
    have hi' : installTariff u.settings.checking u.store (memRead u.hub.mem (param q 0 4) Config.tariffBytes) =
        (st, r) := by
      rw [hu.settings, hu.store, hu.mem]
      exact hi
    unfold tariffLoad
    rw [if_neg (show ¬ param q 4 2 < Config.tariffBytes from Nat.not_lt.mpr hlen), busRead_clean hu.answers]
    dsimp only
    rw [show installTariff (withAnswers u u.hub.answers.tail).settings.checking
      (withAnswers u u.hub.answers.tail).store _ = _ from hi']
    rfl)
  exact ⟨_, rfl, ha, hst⟩

/-- Settles O30. -/
theorem tariffLoadInstalls : Obligations.TariffLoadInstalls := by
  intro q s ht hlen block
  refine ⟨fun hpass => tariffLoad_completes ht hlen ?_, fun reason curve hfail => tariffLoad_completes ht hlen ?_⟩
  · unfold installTariff
    rw [hpass]
    have hcount : (blockTariff block).windows.length = blockWindowCount block :=
      (List.length_map ..).trans List.length_range
    rw [← hcount]
  · unfold installTariff
    rw [hfail]

end Sys2Proof.Proofs
end

section
/-! PROOF. The fleet tables: the queries (O31), STATION_DEFINE (O32), the commissioning requests (O33) and the
two choices (O34). -/

namespace Sys2Proof.Proofs

open Sys2Proof Sys2Proof.Machine Sys2Proof.Laws

-- One thread: the whole text is compiled in one process, whose threads the check limits.
set_option Elab.async false

/-! ## The queries (R19, R20, R107, R131) -/

theorem stationQuery_answers {w : Work} {q : Request} (hi : param q 0 1 < 32)
    (hd : (stationAt w.store (param q 0 1)).isDefined = true) (hp : param q 1 1 ≤ 1) :
    stationQuery w q =
      ({ outcome := .ok
         result := if param q 1 1 = 0 then censusRecord (stationAt w.store (param q 0 1))
           else settingsRecord (stationAt w.store (param q 0 1)) }, w) := by
  have hgood : ¬ (Config.stations ≤ param q 0 1 ∨ 1 < param q 1 1) :=
    not_or.mpr ⟨Nat.not_le.mpr hi, Nat.not_lt.mpr hp⟩
  unfold stationQuery
  dsimp only
  rw [if_neg hgood, hd]
  rfl

theorem namedTicket_of {st : Store} {id : Handle} {k : Ticket} (hs : id.slot < 512) (hk : ticketAt st id = some k) :
    namedTicket st id = .ok k := by
  unfold namedTicket
  rw [if_neg (show ¬ Config.ticketSlots ≤ id.slot from Nat.not_le.mpr hs), hk]

theorem ticketQuery_byId {w : Work} {q : Request} {k : Ticket} (hf : param q 0 1 = 0)
    (hs : (handleParam q 1).slot < 512) (hk : ticketAt w.store (handleParam q 1) = some k) :
    ticketQuery w q = ({ outcome := .ok, result := ticketRecord w (handleParam q 1) k }, w) := by
  unfold ticketQuery
  dsimp only
  rw [if_pos hf, namedTicket_of hs hk]

theorem ticketQuery_bySubject {w : Work} {q : Request} {sub : Subject} (hf : param q 0 1 = 1)
    (hs : subjectParam (param q 1 1) (param q 2 2) = some sub) :
    ticketQuery w q = ({ outcome := .ok, result := subjectRecord w.store sub }, w) := by
  unfold ticketQuery
  dsimp only
  rw [hf, hs]
  rfl

theorem ticketQuery_summary {w : Work} {q : Request} (hf : param q 0 1 = 2) :
    ticketQuery w q = ({ outcome := .ok, result := summaryRecord w.store }, w) := by
  unfold ticketQuery
  dsimp only
  rw [hf]
  rfl

/-- Settles O31. -/
theorem fleetAndTicketQueriesAnswer : Obligations.FleetAndTicketQueriesAnswer := by
  refine ⟨fun q s => ⟨fun ht hb => completes_answer ht rfl (if_neg (Nat.not_le.mpr hb)), fun ht hi hd => ?_,
    fun ht v hv => completes_answer ht rfl (crewed_of hv _)⟩, fun q s ht => ?_⟩
  · refine ⟨fun hp => completes_answer ht rfl ?_, fun hp => completes_answer ht rfl ?_⟩
    · rw [stationQuery_answers (w := begun s) hi hd (by omega), if_pos hp]
      rfl
    · rw [stationQuery_answers (w := begun s) hi hd (by omega), if_neg (by omega)]
      rfl
  · exact ⟨fun k hf hs hk => completes_answer ht rfl (ticketQuery_byId (w := begun s) hf hs hk),
      fun sub hf hs => completes_answer ht rfl (ticketQuery_bySubject (w := begun s) hf hs),
      fun hf => completes_answer ht rfl (ticketQuery_summary (w := begun s) hf)⟩

/-! ## STATION_DEFINE (R14, R15) -/

/-- A work in which each dock of a list has been rewritten by `f`. -/
structure Rewritten (f : Dock → Dock) (l : List Nat) (a w : Work) : Prop where
  docks : ∀ d, dockAt w.store d = if d ∈ l then f (dockAt a.store d) else dockAt a.store d
  store : w.store = { a.store with fleet.docks := w.store.fleet.docks }
  notices : w.notices = a.notices
  touched : ∀ j ∈ w.touched, j ∈ a.touched ∨
    ∃ d ∈ l, (dockAt a.store d).station = some j ∨ (f (dockAt a.store d)).station = some j

theorem foldl_rewritten (f : Dock → Dock) {l : List Nat} (hl : l.Nodup) (a : Work) :
    Rewritten f l a (l.foldl (fun w d => w.setDock d (f (dockAt w.store d))) a) := by
  induction l generalizing a with
  | nil => exact ⟨fun _ => rfl, rfl, rfl, fun _ => Or.inl⟩
  | cons e l ih =>
    obtain ⟨he, hl⟩ := List.nodup_cons.mp hl
    obtain ⟨hdocks, hstore, hnotices, htouched⟩ := ih hl (a.setDock e (f (dockAt a.store e)))
    have hother : ∀ d, d ≠ e → dockAt (a.setDock e (f (dockAt a.store e))).store d = dockAt a.store d :=
      fun d hd => (dockAt_putDock _ _ _ _).trans (if_neg hd)
    refine ⟨fun d => ?_, ?_, hnotices, fun j hj => ?_⟩
    · rw [List.foldl_cons, hdocks d]
      by_cases hde : d = e
      · rw [if_neg (hde ▸ he), if_pos (hde ▸ List.mem_cons_self), hde]
        exact dockAt_putDock_same _ _ _
      · rw [hother d hde]
        simp [hde]
    · rw [List.foldl_cons]
      exact hstore
    · rcases htouched j hj with hj | ⟨d, hd, hj⟩
      · simp only [setDock_touched, List.mem_append, Option.mem_toList] at hj
        rcases hj with (hj | hj) | hj
        · exact Or.inl hj
        · exact Or.inr ⟨e, List.mem_cons_self, Or.inl hj⟩
        · exact Or.inr ⟨e, List.mem_cons_self, Or.inr hj⟩
      · rw [hother d (fun h => he (h ▸ hd))] at hj
        exact Or.inr ⟨d, List.mem_cons_of_mem _ hd, hj⟩

theorem mem_rangeDocks {first count d : Nat} : d ∈ rangeDocks first count ↔ first ≤ d ∧ d < first + count :=
  List.mem_range'_1

theorem mem_range_but {first count first' count' d : Nat} :
    d ∈ (rangeDocks first count).filter (fun d => !(rangeDocks first' count').contains d) ↔
      (first ≤ d ∧ d < first + count) ∧ ¬ (first' ≤ d ∧ d < first' + count') := by
  rw [List.mem_filter, mem_rangeDocks, ← mem_rangeDocks (first := first')]
  simp

theorem moveRange_moves (a : Work) (i first count : Nat) :
    ∃ v, Rewritten leftDock ((rangeDocks (stationAt a.store i).firstDock (stationAt a.store i).dockCount).filter
        (fun d => !(rangeDocks first count).contains d)) a v ∧
      Rewritten (joinedDock i) ((rangeDocks first count).filter
        (fun d => !(rangeDocks (stationAt a.store i).firstDock (stationAt a.store i).dockCount).contains d)) v
        (a.moveRange i first count) :=
  ⟨_, foldl_rewritten leftDock (List.Pairwise.filter _ List.nodup_range') a,
    foldl_rewritten (joinedDock i) (List.Pairwise.filter _ List.nodup_range') _⟩

theorem stationDefine_taken {w : Work} {q : Request} (hi : param q 0 1 < 32) (hf : param q 1 2 < 1024)
    (hc : 1 ≤ param q 3 1) (hc' : param q 3 1 ≤ 64)
    (hr : rangeRefusal w.store (param q 0 1) (param q 1 2) (param q 3 1) = 0) {v : Work}
    (hv : w.moveRange (param q 0 1) (param q 1 2) (param q 3 1) = v) {r : Station}
    (hst : { stationAt v.store (param q 0 1) with
      isDefined := true, firstDock := param q 1 2, dockCount := param q 3 1, settings := stationSettings q } = r) :
    stationDefine w q = ({ outcome := .ok, result := settingsRecord r }, v.setStation (param q 0 1) r) := by
  have hgood : ¬ (Config.stations ≤ param q 0 1 ∨ Config.docks ≤ param q 1 2 ∨ param q 3 1 = 0 ∨
      Config.stationDocks < param q 3 1) := by
    rintro (h | h | h | h)
    · exact absurd hi (Nat.not_lt.mpr h)
    · exact absurd hf (Nat.not_lt.mpr h)
    · omega
    · exact absurd hc' (Nat.not_le.mpr h)
  unfold stationDefine
  dsimp only
  rw [if_neg hgood, if_neg (not_not_intro hr), hv, hst]

theorem clampBand_kept {low high : Nat} (h1 : low ≤ high) (h2 : high ≤ 64) : clampBand low high = ⟨low, high⟩ := by
  unfold clampBand clamp64
  simp only [Band.mk.injEq]
  omega

theorem clampThresholds_kept {a b c d e : Nat} (h1 : a ≤ b) (h2 : b ≤ c) (h3 : c ≤ d) (h4 : d ≤ e) (h5 : e ≤ 64) :
    clampThresholds a b c d e = ⟨a, b, c, d, e⟩ := by
  unfold clampThresholds clamp64
  simp only [Thresholds.mk.injEq]
  omega

/-- Settles O32: each half of the move rewrites the docks of a list (`foldl_rewritten`). -/
theorem stationDefineSetsRange : Obligations.StationDefineSetsRange := by
  refine ⟨?_, fun low high => ⟨clampBand_inRange _ _, rfl, clampBand_kept⟩,
    fun a b c d e => ⟨clampThresholds_inRange _ _ _ _ _, rfl, clampThresholds_kept⟩, by decide⟩
  rintro q s i first count ht rfl rfl rfl hi hf hc hc' hr r r' old new
  obtain ⟨v, hleft, hjoined⟩ := moveRange_moves (begun s) (param q 0 1) (param q 1 2) (param q 3 1)
  obtain ⟨w, hw⟩ : ∃ w, (begun s).moveRange (param q 0 1) (param q 1 2) (param q 3 1) = w := ⟨_, rfl⟩
  rw [hw] at hjoined
  have hstation : ∀ j, stationAt w.store j = stationAt s.store j := fun j => by
    rw [hjoined.store, hleft.store]
    rfl
  have hrule : stationDefine (begun s) q =
      ({ outcome := .ok, result := settingsRecord r' }, w.setStation (param q 0 1) r') :=
    stationDefine_taken hi hf hc hc' hr hw (by rw [hstation])
  have hleftAt : ∀ d, dockAt v.store d =
      if old d ∧ ¬ new d then leftDock (dockAt s.store d) else dockAt s.store d :=
    fun d => (hleft.docks d).trans (ite_congr (propext mem_range_but) (fun _ => rfl) (fun _ => rfl))
  have hdock : ∀ d, dockAt w.store d =
      if new d ∧ ¬ old d then joinedDock (param q 0 1) (dockAt v.store d) else dockAt v.store d :=
    fun d => (hjoined.docks d).trans (ite_congr (propext mem_range_but) (fun _ => rfl) (fun _ => rfl))
  refine ⟨(w.setStation (param q 0 1) r').touched, by simp, fun j hj => ?_, completesAt_of ht rfl hrule ?_ (fun j => ?_)
    (fun j => Iff.rfl) (fun t hb => ?_)⟩
  · rw [setStation_touched, List.mem_append, List.mem_singleton] at hj
    rcases hj with hj | hj
    · rcases hjoined.touched j hj with hj | ⟨d, hd, hj⟩
      · rcases hleft.touched j hj with hj | ⟨d, hd, hj⟩
        · exact absurd hj List.not_mem_nil
        · exact Or.inr ⟨d, Or.inl (mem_range_but.mp hd).1, hj.elim id (fun h => nomatch h)⟩
      · obtain ⟨hnew, hold⟩ := mem_range_but.mp hd
        rcases hj with hj | hj
        · rw [hleftAt, if_neg (fun h => hold h.1)] at hj
          exact Or.inr ⟨d, Or.inr hnew, hj⟩
        · exact Or.inl (Option.some.inj hj).symm
    · exact Or.inl hj
  · exact hjoined.notices.trans hleft.notices
  · rw [setStation_store, stationAt_putStation, hstation]
  · have hdocks : ∀ d, dockAt t d = dockAt w.store d := fun d => dockAt_congr hb.docks
    refine ⟨fun d ho hn => ?_, fun d hn ho => ?_, fun d h => ?_, ?_⟩
    · rw [hdocks, hdock, if_neg (fun h => hn h.1), hleftAt, if_pos ⟨ho, hn⟩]
      rfl
    · rw [hdocks, hdock, if_pos ⟨hn, ho⟩, hleftAt, if_neg (fun h => ho h.1)]
      rfl
    · rw [hdocks, hdock, if_neg (fun hx => hx.2 (h.mpr hx.1)), hleftAt, if_neg (fun hx => hx.2 (h.mp hx.1))]
    · have hws : w.store = { s.store with fleet.docks := w.store.fleet.docks } :=
        hjoined.store.trans (by rw [hleft.store]; rfl)
      have he := hb.eq
      have hd : t.fleet.docks = w.store.fleet.docks := hb.docks
      rw [setStation_store, hws, ← hd] at he
      exact he

/-! ## Commissioning (R16 to R18) -/

theorem bikeCommission_taken {w : Work} {q : Request} (hb : param q 0 2 < 2048)
    (hs : (bikeAt w.store (param q 0 2)).state = .uncommissioned ∨ (bikeAt w.store (param q 0 2)).state = .retired) :
    bikeCommission w q =
      ({ outcome := .ok, result := bikeRecord (putBike w.store (param q 0 2) commissionedBike) (param q 0 2) },
        w.setBike (param q 0 2) commissionedBike) := by
  unfold bikeCommission
  dsimp only
  rw [if_neg (show ¬ Config.bikes ≤ param q 0 2 from Nat.not_le.mpr hb), if_pos hs]
  rfl

/-- A bike record as a query gives it reads the bike, its cards and its tickets only. -/
theorem bikeRecord_waiting (st : Store) (l : List Subject) (b : Nat) :
    bikeRecord { st with faults.waiting := l } b = bikeRecord st b := rfl

/-- R17: the record of a bike decommissioned. -/
def decommissionedBike (r : Bike) : Bike :=
  { r with state := .uncommissioned, place := none, fault := { r.fault with pending := none } }

theorem bikeDecommission_taken {w : Work} {q : Request} {b : Nat} (he : b = param q 0 2) (hb : b < 2048)
    (hs : (bikeAt w.store b).state = .workshop ∨ (bikeAt w.store b).state = .missing)
    (hn : (bikeAt w.store b).fault.ticket = none) :
    bikeDecommission w q =
      ({ outcome := .ok, result := bikeRecord (putBike w.store b (decommissionedBike (bikeAt w.store b))) b },
        (w.setBike b (decommissionedBike (bikeAt w.store b))).leaveWaiting (.bike b)) := by
  have hgood : ¬ (((bikeAt w.store b).state ≠ .workshop ∧ (bikeAt w.store b).state ≠ .missing) ∨
      (bikeAt w.store b).fault.ticket.isSome = true) := by
    rintro (⟨h1, h2⟩ | h)
    · exact hs.elim h1 h2
    · rw [hn] at h
      cases h
  unfold bikeDecommission
  dsimp only
  rw [← he, if_neg (show ¬ Config.bikes ≤ b from Nat.not_le.mpr hb), if_neg hgood, Work.leaveWaiting, setWaiting_store, bikeRecord_waiting]
  rfl

theorem dockCommission_taken {w : Work} {q : Request} {d : Nat} (he : d = param q 0 2) (hd : d < 1024)
    (hs : (dockAt w.store d).service = .retired) (hc : ∀ b, (dockAt w.store d).content ≠ .bike b) :
    dockCommission w q = ({ outcome := .ok }, w.setDock d (commissionedDock (dockAt w.store d))) := by
  have hbike : ¬ (dockAt w.store d).content.isBike = true := by
    cases h : (dockAt w.store d).content with
    | bike b => exact absurd h (hc b)
    | empty => decide
    | unidentified => decide
  unfold dockCommission
  dsimp only
  rw [← he, if_neg (show ¬ Config.docks ≤ d from Nat.not_le.mpr hd), if_neg (not_or.mpr ⟨not_not_intro hs, hbike⟩)]

/-- Settles O33. -/
theorem commissioningSetsRecords : Obligations.CommissioningSetsRecords := by
  refine ⟨?_, ?_, ?_⟩
  · rintro q s b ht rfl hb hs u
    refine completesAt_of ht rfl (bikeCommission_taken (w := begun s) hb hs) rfl (fun i => rfl) (fun i => ?_)
      (fun t hbut => hbut.eq)
    simp [begun, stationsOfBike, commissionedBike, placeStation]
  · intro q s b ht he hb hs hn r u
    refine completesAt_of ht rfl (bikeDecommission_taken (w := begun s) he hb hs hn) rfl (fun i => rfl)
      (fun i => ?_) (fun t hbut => hbut.eq)
    simp [Work.leaveWaiting, begun, stationsOfBike, decommissionedBike, placeStation]
  · intro q s d ht he hd hs hc r u
    refine completesAt_of ht rfl (dockCommission_taken (w := begun s) he hd hs hc) rfl (fun i => rfl) (fun i => ?_)
      (fun t hbut => hbut.eq)
    exact (mem_setDock_touched rfl i).trans (or_iff_right List.not_mem_nil)

/-! ## The two choices (R52, R118) -/

/-- A choice among the docks below `stop`: the bike with the fewest rides, the lowest dock on a tie. -/
structure FewestRides (st : Store) (first stop : Nat) (best : Option Nat) : Prop where
  none : best = none → ∀ d, first ≤ d → d < stop → usableIn st d = none
  some : ∀ b, best = some b → ∃ d, first ≤ d ∧ d < stop ∧ usableIn st d = some b ∧
    ∀ e, first ≤ e → e < stop → ∀ b', usableIn st e = some b' →
      (bikeAt st b).rides ≤ (bikeAt st b').rides ∧ (e < d → (bikeAt st b).rides < (bikeAt st b').rides)

/-- One more dock, which holds no usable bike. -/
theorem FewestRides.skip {st : Store} {first stop : Nat} {best : Option Nat} (h : FewestRides st first stop best)
    (hu : usableIn st stop = Option.none) : FewestRides st first (stop + 1) best := by
  refine ⟨fun hb d h1 h2 => ?_, fun b hb => ?_⟩
  · rcases Nat.lt_succ_iff_lt_or_eq.mp h2 with h2 | rfl
    · exact h.none hb d h1 h2
    · exact hu
  · obtain ⟨d, h1, h2, hd, hbest⟩ := h.some b hb
    refine ⟨d, h1, Nat.lt_succ_of_lt h2, hd, fun e h3 h4 b' he => ?_⟩
    rcases Nat.lt_succ_iff_lt_or_eq.mp h4 with h4 | rfl
    · exact hbest e h3 h4 b' he
    · rw [hu] at he
      cases he

/-- One more dock, whose usable bike is compared with the best so far. -/
theorem FewestRides.compare {st : Store} {first stop : Nat} {best : Option Nat} (h : FewestRides st first stop best)
    (hf : first ≤ stop) {x : Nat} (hu : usableIn st stop = Option.some x) :
    FewestRides st first (stop + 1) (fewerRides st best x) := by
  have hnew : ∀ (hbefore : ∀ e, first ≤ e → e < stop → ∀ b', usableIn st e = Option.some b' →
      (bikeAt st x).rides < (bikeAt st b').rides), FewestRides st first (stop + 1) (Option.some x) := by
    refine fun hbefore => ⟨nofun, fun b hb => ?_⟩
    obtain rfl := Option.some.inj hb
    refine ⟨stop, hf, Nat.lt_succ_self _, hu, fun e h3 h4 b' he => ?_⟩
    rcases Nat.lt_succ_iff_lt_or_eq.mp h4 with h4 | rfl
    · exact ⟨Nat.le_of_lt (hbefore e h3 h4 b' he), fun _ => hbefore e h3 h4 b' he⟩
    · obtain rfl := Option.some.inj (hu.symm.trans he)
      exact ⟨Nat.le_refl _, fun hlt => absurd hlt (Nat.lt_irrefl _)⟩
  cases best with
  | none =>
    refine hnew fun e h3 h4 b' he => ?_
    rw [h.none rfl e h3 h4] at he
    cases he
  | some y =>
    obtain ⟨d, h1, h2, hd, hbest⟩ := h.some y rfl
    unfold fewerRides
    dsimp only
    split
    next hlt => exact hnew fun e h3 h4 b' he => Nat.lt_of_lt_of_le hlt (hbest e h3 h4 b' he).1
    next hge =>
      refine ⟨nofun, fun b hb => ?_⟩
      obtain rfl := Option.some.inj hb
      refine ⟨d, h1, Nat.lt_succ_of_lt h2, hd, fun e h3 h4 b' he => ?_⟩
      rcases Nat.lt_succ_iff_lt_or_eq.mp h4 with h4 | rfl
      · exact hbest e h3 h4 b' he
      · obtain rfl := Option.some.inj (hu.symm.trans he)
        exact ⟨Nat.not_lt.mp hge, fun hlt => absurd hlt (Nat.lt_asymm h2)⟩

theorem fewestRides_range (st : Store) (first count : Nat) :
    FewestRides st first (first + count)
      (((rangeDocks first count).filterMap (usableIn st)).foldl (fewerRides st) none) := by
  induction count with
  | zero => exact ⟨fun _ d h1 h2 => absurd h2 (Nat.not_lt.mpr h1), fun _ h => nomatch h⟩
  | succ n ih =>
    rw [rangeDocks, List.range'_1_concat, List.filterMap_append, List.foldl_append]
    cases hu : usableIn st (first + n) with
    | none =>
      rw [List.filterMap_cons_none hu]
      exact ih.skip hu
    | some x =>
      rw [List.filterMap_cons_some hu]
      exact ih.compare (Nat.le_add_right _ _) hu

/-- A choice among the stations below `stop`: the highest score above 0, the lowest index on a tie. -/
structure HighestScore (score : Nat → Nat) (ok : Nat → Bool) (stop : Nat) (best : Option Nat) : Prop where
  none : best = none → ∀ j < stop, ok j = true → score j = 0
  some : ∀ i, best = some i → i < stop ∧ ok i = true ∧ 0 < score i ∧
    ∀ j < stop, ok j = true → score j ≤ score i ∧ (j < i → score j < score i)

section
variable {score : Nat → Nat} {ok : Nat → Bool} {n : Nat} {best : Option Nat}

/-- One more station, which is no candidate. -/
theorem HighestScore.skip (h : HighestScore score ok n best) (hn : ¬ ok n = true) :
    HighestScore score ok (n + 1) best := by
  refine ⟨fun hb j hj hok => ?_, fun i hi => ?_⟩
  · rcases Nat.lt_succ_iff_lt_or_eq.mp hj with hj | rfl
    · exact h.none hb j hj hok
    · exact absurd hok hn
  · obtain ⟨h1, h2, h3, h4⟩ := h.some i hi
    refine ⟨Nat.lt_succ_of_lt h1, h2, h3, fun j hj hok => ?_⟩
    rcases Nat.lt_succ_iff_lt_or_eq.mp hj with hj | rfl
    · exact h4 j hj hok
    · exact absurd hok hn

/-- One more candidate, which scores above every one before it. -/
theorem HighestScore.beats (hn : ok n = true) (hpos : 0 < score n) (hbefore : ∀ j < n, ok j = true → score j < score n) :
    HighestScore score ok (n + 1) (Option.some n) := by
  refine ⟨nofun, fun i hi => ?_⟩
  obtain rfl := Option.some.inj hi
  refine ⟨Nat.lt_succ_self _, hn, hpos, fun j hj hok => ?_⟩
  rcases Nat.lt_succ_iff_lt_or_eq.mp hj with hj | rfl
  · exact ⟨Nat.le_of_lt (hbefore j hj hok), fun _ => hbefore j hj hok⟩
  · exact ⟨Nat.le_refl _, fun hlt => absurd hlt (Nat.lt_irrefl _)⟩

/-- One more candidate, compared with the best so far. -/
theorem HighestScore.compare (h : HighestScore score ok n best) (hn : ok n = true) :
    HighestScore score ok (n + 1) (betterStation score best n) := by
  cases best with
  | none =>
    have hzero := h.none rfl
    unfold betterStation
    dsimp only
    split
    next hpos => exact .beats hn hpos fun j hj hok => by rw [hzero j hj hok]; exact hpos
    next hpos =>
      refine ⟨fun _ j hj hok => ?_, nofun⟩
      rcases Nat.lt_succ_iff_lt_or_eq.mp hj with hj | rfl
      · exact hzero j hj hok
      · exact Nat.eq_zero_of_not_pos hpos
  | some i =>
    obtain ⟨h1, h2, h3, h4⟩ := h.some i rfl
    unfold betterStation
    dsimp only
    split
    next hlt =>
      exact .beats hn (Nat.lt_trans h3 hlt) fun j hj hok => Nat.lt_of_le_of_lt (h4 j hj hok).1 hlt
    next hge =>
      refine ⟨nofun, fun k hk => ?_⟩
      obtain rfl := Option.some.inj hk
      refine ⟨Nat.lt_succ_of_lt h1, h2, h3, fun j hj hok => ?_⟩
      rcases Nat.lt_succ_iff_lt_or_eq.mp hj with hj | rfl
      · exact h4 j hj hok
      · exact ⟨Nat.not_lt.mp hge, fun hlt => absurd hlt (Nat.lt_asymm h1)⟩

end

theorem highestScore_range (score : Nat → Nat) (ok : Nat → Bool) (stop : Nat) :
    HighestScore score ok stop (((List.range stop).filter ok).foldl (betterStation score) none) := by
  induction stop with
  | zero => exact ⟨fun _ j h => absurd h (Nat.not_lt_zero _), fun _ h => nomatch h⟩
  | succ n ih =>
    rw [List.range_succ, List.filter_append, List.foldl_append]
    by_cases hn : ok n = true
    · rw [List.filter_cons_of_pos hn]
      exact ih.compare hn
    · rw [List.filter_cons_of_neg hn]
      exact ih.skip hn

/-- Settles O34: each choice is the best of the docks, or of the stations, walked through so far. -/
theorem choicesTakeTheBest : Obligations.ChoicesTakeTheBest := by
  refine ⟨fun st i b hb => ?_, fun st i hb d hd => ?_, fun set st v mode i hi => ?_, fun set st v mode hi => ?_⟩
  · obtain ⟨d, h1, h2, hd, hbest⟩ := (fewestRides_range st _ _).some b hb
    exact ⟨d, mem_rangeDocks.mpr ⟨h1, h2⟩, hd, fun e he => hbest e (mem_rangeDocks.mp he).1 (mem_rangeDocks.mp he).2⟩
  · exact (fewestRides_range st _ _).none hb d (mem_rangeDocks.mp hd).1 (mem_rangeDocks.mp hd).2
  · exact (highestScore_range _ _ _).some i hi
  · exact (highestScore_range _ _ _).none hi

end Sys2Proof.Proofs
end

section
/-! PROOF. Arrivals (O35, O36) and removals (O37) at a dock. -/

namespace Sys2Proof.Proofs

open Sys2Proof Sys2Proof.Machine Sys2Proof.Laws

-- One thread: the whole text is compiled in one process, whose threads the check limits.
set_option Elab.async false

/-! ## The ticket of a bike moves (R97) -/

/-- The move of a ticket reads the bike's ticket and the ticket table only. -/
theorem ticketIn_tickets {a s : Store} {b : Nat} (x : TicketState)
    (hb : (bikeAt a b).fault.ticket = (bikeAt s b).fault.ticket) (ht : a.faults.tickets = s.faults.tickets) :
    (ticketIn a b x).faults.tickets = (ticketIn s b x).faults.tickets := by
  have hslot : ∀ k, ticketSlotAt a k = ticketSlotAt s k := fun k => ticketSlotAt_congr ht
  unfold ticketIn ticketAt
  simp only [hb, hslot]
  split
  · exact ht
  · rw [putTicketSlot, putTicketSlot, ht]

/-- Only the slot of the bike's ticket changes. -/
theorem ticketIn_others (s : Store) (b : Nat) (x : TicketState) {k : Nat}
    (hk : k ∉ ((bikeAt s b).fault.ticket.map Handle.slot).toList) :
    ticketSlotAt (ticketIn s b x) k = ticketSlotAt s k := by
  unfold ticketIn
  split
  next => rfl
  next id t h =>
    obtain ⟨id', hid, ht⟩ := Option.bind_eq_some_iff.mp h
    obtain ⟨t', -, hpair⟩ := Option.map_eq_some_iff.mp ht
    obtain ⟨rfl, -⟩ := Prod.mk.inj hpair
    rw [hid] at hk
    exact (ticketSlotAt_putTicketSlot _ _ _ _).trans (if_neg (List.ne_of_not_mem_cons hk))

/-- The records once a ticket has moved and the stations have settled. -/
theorem moved_of_but {w : Work} {b : Nat} {x : TicketState} {t : Store} (h : ButStations (w.moveTicket b x).store t) :
    t = { w.store with
      faults.tickets := (ticketIn w.store b x).faults.tickets, fleet.stations := t.fleet.stations } := by
  have he := h.eq
  rw [(moveTicket_eq w b x).1, ticketIn_eq] at he
  exact he

theorem vanAt_of_put {a b : Store} {j : Nat} {r : Van} (h : b.vans = (putVan a j r).vans) :
    vanAt b j = r ∧ ∀ k, k ≠ j → vanAt b k = vanAt a k :=
  ⟨(vanAt_congr h).trans (vanAt_putVan_same _ _ _),
    fun _ hk => (vanAt_congr h).trans ((vanAt_putVan _ _ _ _).trans (if_neg hk))⟩

/-! ## The dock of an arrival (R21, R23, R132) -/

/-- R23, R132: an arrival of bike `b` at the empty dock `d`, before its bike side. -/
def landed (w : Work) (d b : Nat) : Work := (w.bumpDock d 1).putContent d (.bike b)

/-- R23: the record of a dock in which bike `b` has landed. -/
def landedDock (r : Dock) (b : Nat) : Dock := { r with content := .bike b, latch := .latched, lastLapse := none }

structure Landed (a w : Work) (d b : Nat) : Prop where
  store : w.store = { putDock a.store d (landedDock (dockAt a.store d) b) with fleet.stations := w.store.fleet.stations }
  stations : ∀ i, stationAt w.store i = bumped a.store d 1 i
  set : w.set = a.set
  notices : w.notices = a.notices
  touched : ∀ i, i ∈ w.touched ↔ i ∈ a.touched ∨ i ∈ stationsOfDock a.store d

theorem landed_landed {w : Work} {d b : Nat} (h : (dockAt w.store d).content = .empty) : Landed w (landed w d b) d b := by
  obtain ⟨hset, hnotes, hbut, hstations, htouched⟩ := bumpDock_eq w d 1
  have hdock : dockAt (w.bumpDock d 1).store d = dockAt w.store d := dockAt_congr hbut.docks
  have hput : landed w d b = (w.bumpDock d 1).setDock d (landedDock (dockAt w.store d) b) := by
    unfold landed Work.putContent
    dsimp only
    rw [hdock, h, if_neg (by simp)]
    rfl
  rw [hput]
  refine ⟨?_, fun i => hstations i, hset, hnotes, fun i => ?_⟩
  · have he := hbut.eq
    rw [setDock_store]
    generalize (w.bumpDock d 1).store = st at he
    rw [he]
    rfl
  · have hsame : stationsOfDock (w.bumpDock d 1).store d = stationsOfDock w.store d :=
      congrArg (fun r : Dock => r.station.toList) hdock
    rw [mem_setDock_touched (by rw [hdock]; rfl), htouched, hsame]
    simp

theorem Landed.sameDockStations {a w : Work} {d b : Nat} (h : Landed a w d b) : SameDockStations a.store w.store := by
  intro x
  have hdock := dockAt_congr (a := putDock a.store d (landedDock (dockAt a.store d) b)) (b := w.store) (k := x)
    (by rw [h.store])
  rw [hdock]
  exact sameDockStations_putDock (a := a.store) (b := a.store) (d := d)
    (r := landedDock (dockAt a.store d) b) (fun _ => rfl) rfl x

theorem Landed.bike_same {a w : Work} {d b : Nat} (h : Landed a w d b) (k : Nat) : bikeAt w.store k = bikeAt a.store k :=
  bikeAt_congr (by rw [h.store]; rfl)

/-- R21 to R24: an arrival at an empty dock, with no report by the button, no damage and no service falling due. -/
theorem arrive_plain {w : Work} {d b : Nat} {x : Work} {o : Option Settlement}
    (he : (dockAt w.store d).content = .empty) (hside : bikeSideOf w.store (some b) = some b)
    (hx : (landed w d b).bikeSide b d false = (x, o, noReport))
    (hdue : serviceDue x.set (bikeAt w.store b).rides (bikeAt (x.moveTicket b .opened).store b).rides = false) :
    w.arrive d (some b) false false =
      ({ outcome := .ok
         result := arrivalRecord (x.moveTicket b .opened).store d (some b) (bikeAt w.store b).state.toCode o .none },
        x.moveTicket b .opened) := by
  have hl := landed_landed (b := b) he
  have hclear : (w.bumpDock d 1).clearContent d (some b) = w.bumpDock d 1 := by
    unfold Work.clearContent
    rw [dockAt_congr (bumpDock_eq w d 1).2.2.1.docks, he]
  have hfaults : (x.moveTicket b .opened).bikeFaults b (bikeAt w.store b).rides noReport false =
      (x.moveTicket b .opened, .none) := by
    unfold Work.bikeFaults raiseIf
    simp only [noReport, Bool.false_eq_true, if_false]
    rw [(moveTicket_eq x b .opened).2.1, hdue]
    rfl
  unfold Work.arrive
  dsimp only
  rw [hclear, hside]
  dsimp only
  rw [show (w.bumpDock d 1).putContent d (.bike b) = landed w d b from rfl, hx, hl.bike_same]
  dsimp only
  rw [hfaults]
  rfl

theorem arrivalRecord_plain {st : Store} {d b prior : Nat} {o : Option Settlement} {k : Bike}
    (hd : (dockAt st d).content = .bike b) (hb : (bikeAt st b).fault = k.fault) :
    arrivalRecord st d (some b) prior o .none =
      le 2 b ++ le 1 prior ++ le 1 (if o.isSome then 1 else 0) ++ le 1 0 ++ le 3 0 ++ le 1 k.fault.strikes ++
        encFlag k.fault.condemned ++ (o.map Settlement.record).getD [] := by
  unfold arrivalRecord
  dsimp only
  rw [hd, hb]
  cases o <;> rfl

theorem bikeArrived_plain {w : Work} {q : Request} {d b : Nat} (hd : d = param q 0 2) (hb : b = param q 2 2)
    (hdock : d < 1024) (hbike : b < 2048) (hbutton : param q 4 1 = 0) (hdamage : param q 5 1 = 0)
    (hs : (dockAt w.store d).service = .inService ∨ (dockAt w.store d).service = .outOfService) :
    bikeArrived w q = w.arrive d (some b) false false := by
  have hgood : ¬ (Config.docks ≤ d ∨ goodReport b = false ∨ 1 < 0 ∨ 1 < 0) := by
    rintro (h | h | h | h)
    · exact absurd hdock (Nat.not_lt.mpr h)
    · simp [goodReport, Config.bikes, hbike] at h
    · cases h
    · cases h
  have hservice : ¬ ((dockAt w.store d).service = .undefined ∨ (dockAt w.store d).service = .retired) := by
    rintro (h | h) <;> rcases hs with h' | h' <;> rw [h] at h' <;> cases h'
  have hreport : reportOf b = some b := if_neg (by unfold unread; omega)
  unfold bikeArrived
  dsimp only
  rw [← hd, ← hb, hbutton, hdamage, if_neg hgood, if_neg hservice, hreport]
  rfl

/-! ## The settlement (R58, R59, R60) -/

/-- R59: the card of a settlement. -/
def settledFrom (set : Settings) (t : Tariff) (h : Handle) (r : Hire) (c : Card) (i : FareInput) : Card :=
  let f := computeFare set t c i
  { c with
    balance := f.balance, carry := f.carry, capDay := f.capDay, daySpent := f.daySpent
    openHires := c.openHires.filter (· ≠ h), holdTotal := c.holdTotal - r.hold
    status := statusAfterCharge t c f.balance }

theorem settledCard_eq (set : Settings) (t : Tariff) (h : Handle) (r : Hire) (c : Card) (i : FareInput) :
    settledCard set t h r c i = settledFrom set t h r c i := by
  unfold settledCard
  dsimp only
  rw [suspensionTest_charged (c := c) (by rfl) (by rfl)]
  rfl

/-- R59: the bike of a settlement. -/
def settledBike (k : Bike) (d : Nat) : Bike :=
  { k with state := .docked, place := some (.dock d), hire := none, rides := min (k.rides + 1) 65535 }

/-- R59: the work of a settlement before its card is closed. -/
def settledWork (w : Work) (b d : Nat) (h : Handle) (r : Hire) (c : Card) : Work :=
  ((((w.setCard r.card c).removeEntry (.overdue h)).removeEntry (.lost h)).freeHire h).setBike b
    (settledBike (bikeAt w.store b) d)

/-- R58 to R60: the settlement of a hire without a report. -/
theorem settleHire_plain {w : Work} {b d : Nat} {h : Handle} {r : Hire} {c : Card} {start now : Nat}
    (hstart : r.startTime = some start) (hnow : w.now = now) {c' : Card}
    (hc : settledFrom w.set w.store.tariff.active h r c ⟨start, now, r.cls, false⟩ = c') :
    w.settleHire b d h r c false =
      (((settledWork w b d h r c').closeCardAtLast r.card).1,
        ⟨h, c.serial, b, r.origin, d, r.state, start, now,
          computeFare w.set w.store.tariff.active c ⟨start, now, r.cls, false⟩, c'.status, decide (ClosesAtLast c')⟩,
        noReport) := by
  obtain ⟨hclose, hset, -⟩ := closeCardAtLast_eq (w := settledWork w b d h r c') (slot := r.card) (c := c')
    (cardAt_putCard_same w.store _ _)
  rw [← hclose]
  unfold Work.settleHire reportTest
  simp only [Bool.false_eq_true, if_false, hstart, hnow, Option.getD_some, settledCard_eq, noReport, hc]
  conv =>
    rhs
    rw [show w.set = _ from hset.symm]
  rfl

theorem bikeSide_onHire {w : Work} {b d : Nat} {h : Handle} {r : Hire} {c : Card} {x : Work} {o : Settlement}
    {rep : Report} (hs : (bikeAt w.store b).state = .onHire) (hh : (bikeAt w.store b).hire = some h)
    (hr : hireAt w.store h = some r) (hc : cardAt w.store r.card = some c)
    (hx : w.settleHire b d h r c false = (x, o, rep)) : w.bikeSide b d false = (x, some o, rep) := by
  unfold Work.bikeSide
  dsimp only
  rw [hs]
  dsimp only
  rw [hh]
  dsimp only
  rw [hr]
  dsimp only
  rw [hc]
  dsimp only
  rw [hx]

theorem bikeSideOf_recorded {st : Store} {b : Nat} {x : BikeState} (hx : (bikeAt st b).state = x)
    (hu : x ≠ .uncommissioned) (hr : x ≠ .retired) : bikeSideOf st (some b) = some b := by
  unfold bikeSideOf
  dsimp only
  rw [hx]
  cases x with
  | uncommissioned => exact absurd rfl hu
  | retired => exact absurd rfl hr
  | _ => rfl

/-- The work of a settlement, in its store. -/
theorem settledWork_store (w : Work) (b d : Nat) (h : Handle) (r : Hire) (c : Card) :
    (settledWork w b d h r c).store =
      { putBike (putHireSlot (putCard w.store r.card (some c)) h.slot
          ⟨((hireSlotAt w.store h.slot).gen + 1) % 256, none⟩) b
          (settledBike (bikeAt w.store b) d) with
        timer.deadlines := dropEntry (.lost h) (dropEntry (.overdue h) w.store.timer.deadlines) } := rfl

theorem settledWork_touched (w : Work) (b d : Nat) (h : Handle) (r : Hire) (c : Card) (i : Nat) :
    i ∈ (settledWork w b d h r c).touched ↔
      i ∈ w.touched ∨ i ∈ stationsOfBike w.store b ∨ i ∈ stationsOfDock w.store d := by
  have hplace : ∀ p, placeStation
      ((((w.setCard r.card c).removeEntry (.overdue h)).removeEntry (.lost h)).freeHire h).store p =
        placeStation w.store p := placeStation_congr fun _ => rfl
  unfold settledWork
  rw [setBike_touched, hplace, hplace]
  simp only [List.mem_append, or_assoc]
  rfl

/-- Settles O35: the arrival lands the bike (`landed_landed`), the settlement closes its hire. -/
theorem arrivalSettlesHire : Obligations.ArrivalSettlesHire := by
  intro q s d b h r c start now ht hd hb hdock hbike hbutton hdamage hservice hempty hstate hhire hr hstart hc hclock
    hint t0 f k c'
  have hl := landed_landed (w := begun s) (b := b) hempty
  obtain ⟨v, hv⟩ : ∃ v, landed (begun s) d b = v := ⟨_, rfl⟩
  rw [hv] at hl
  have hvs : v.store = { putDock s.store d (landedDock (dockAt s.store d) b) with
    fleet.stations := v.store.fleet.stations } := hl.store
  have hvnow : v.now = now := by
    rw [Work.now, hvs]
    change s.store.timer.clock.getD 0 = now
    rw [hclock]
    rfl
  have hvbike : bikeAt v.store b = k := hl.bike_same b
  have hvset : v.set = s.settings := hl.set
  have hvtariff : v.store.tariff = s.store.tariff := by rw [hvs]; rfl
  have hvcard : cardAt v.store r.card = some c := (cardAt_congr (by rw [hvs]; rfl)).trans hc
  have hsettle := settleHire_plain (w := v) (b := b) (d := d) (h := h) (r := r) (c := c) hstart hvnow (c' := c')
    (by rw [hvset, hvtariff]; rfl)
  rw [hvset, hvtariff] at hsettle
  have hside := bikeSide_onHire (w := v) (by rw [hvbike]; exact hstate) (by rw [hvbike]; exact hhire)
    (show hireAt v.store h = some r by
      rw [← hr, hireAt, hireAt, hireSlotAt_congr (a := s.store) (b := v.store) (by rw [hvs]; rfl)]) hvcard hsettle
  have hustore := settledWork_store v b d h r c'
  rw [hvbike] at hustore
  have hutouched := settledWork_touched v b d h r c'
  have hunotices : (settledWork v b d h r c').notices = [] := hl.notices
  have huset : (settledWork v b d h r c').set = s.settings := hvset
  generalize settledWork v b d h r c' = u at hside hustore hutouched hunotices huset
  have hcu : cardAt u.store r.card = some c' := (cardAt_congr (by rw [hustore]; rfl)).trans (cardAt_putCard_same _ _ _)
  obtain ⟨-, hxset, hxtouched, hxnotices, -⟩ := closeCardAtLast_eq hcu
  have hxs := (closeCardAtLast_left hcu).2
  have hleaves : ∀ t : Store, t.cards = (u.closeCardAtLast r.card).1.store.cards → _ := fun t =>
    closeCardAtLast_leaves (s := s.store) hcu
      ⟨fun j hj => (cardAt_congr (by rw [hustore, hvs]; rfl)).trans ((cardAt_putCard s.store _ _ _).trans (if_neg hj)),
        by rw [hustore, hvs]; rfl, by rw [hustore, hvs]; rfl⟩
  generalize (u.closeCardAtLast r.card).1 = x at hside hxset hxtouched hxnotices hxs hleaves
  have hxbike : (bikeAt x.store b).fault = k.fault := by
    rw [(bikeAt_of_put (a := s.store) (b := x.store) (j := b) (r := settledBike k d)
      (by rw [hxs, hustore, hvs]; rfl)).1]
    rfl
  -- the records at the end of the work
  have hfinal : ∀ t, ButStations (x.moveTicket b .opened).store t → t = { u.store with
      cards := x.store.cards, faults.tickets := (ticketIn s.store b .opened).faults.tickets
      fleet.stations := t.fleet.stations } := fun t hb => by
    have hticket := ticketIn_tickets (a := x.store) (s := s.store) (b := b) .opened
      (by rw [hxbike]) (by rw [hxs, hustore, hvs]; rfl)
    have he := moved_of_but hb
    rw [hticket, hxs] at he
    exact he
  have hbikes : ∀ t, ButStations (x.moveTicket b .opened).store t → _ := fun t hb =>
    bikeAt_of_put (a := s.store) (b := t) (j := b)
      (r := settledBike k d)
      (by rw [hfinal t hb, hustore, hvs]; rfl)
  have hdocks : ∀ t, ButStations (x.moveTicket b .opened).store t → _ := fun t hb =>
    dockAt_of_put (a := s.store) (b := t) (j := d) (r := landedDock (dockAt s.store d) b)
      (by rw [hfinal t hb, hustore, hvs]; rfl)
  have hdue : serviceDue x.set (bikeAt s.store b).rides (bikeAt (x.moveTicket b .opened).store b).rides = false := by
    rw [(hbikes _ (.refl _)).1, hxset, huset]
    simp [serviceDue, settledBike, k, Ne.symm hint]
  obtain ⟨-, -, hynotices, hytouched⟩ := moveTicket_eq x b .opened
  have hrule := arrive_plain (w := begun s) hempty (bikeSideOf_recorded hstate (by decide) (by decide))
    (by rw [hv]; exact hside) hdue
  rw [arrivalRecord_plain (k := k) (by rw [(hdocks _ (.refl _)).1]; rfl) (by rw [(hbikes _ (.refl _)).1]; rfl)] at hrule
  refine completesAt_of (w := x.moveTicket b .opened) ht rfl ((bikeArrived_plain (w := begun s) hd hb hdock hbike hbutton hdamage hservice).trans
    (hrule.trans ?_)) ?_ (fun i => ?_) (fun i => ?_) (fun t hbut => ?_)
  · rw [show (bikeAt (begun s).store b).state = .onHire from hstate]
    rfl
  · rw [hynotices, hxnotices, hunotices]
    rfl
  · exact (stationAt_congr (by rw [(moveTicket_eq x b .opened).1, ticketIn_eq, hxs, hustore]; rfl)).trans
      (hl.stations i)
  · rw [hytouched, hxtouched, hutouched, hl.touched, stationsOfBike_congr hl.sameDockStations (by rw [hl.bike_same]),
      stationsOfDock_congr hl.sameDockStations, List.mem_append]
    change ((i ∈ [] ∨ i ∈ stationsOfDock s.store d) ∨ i ∈ stationsOfBike s.store b ∨ i ∈ stationsOfDock s.store d) ↔ _
    simp only [List.not_mem_nil, false_or]
    exact ⟨fun h => h.elim Or.inr id, Or.inr⟩
  · have he := hfinal t hbut
    obtain ⟨hleft, hothers⟩ := hleaves t (by rw [he])
    obtain ⟨hbike', hbikes'⟩ := hbikes t hbut
    obtain ⟨hdock', hdocks'⟩ := hdocks t hbut
    obtain ⟨hhire', hhires'⟩ := hireSlotAt_of_put (a := s.store) (b := t) (j := h.slot)
      (r := ⟨((hireSlotAt s.store h.slot).gen + 1) % 256, none⟩) (by rw [he, hustore, hvs]; rfl)
    have htickets : t.faults.tickets = (ticketIn s.store b .opened).faults.tickets := by rw [he]
    refine ⟨hleft, hbike', hdock', hhire', by rw [he, hustore, hvs]; rfl, htickets, by rw [he, hustore, hvs]; exact hclock,
      by rw [SameHeld, he, hustore, hvs]; rfl, by rw [SameWaiting, he, hustore, hvs]; rfl, ?_⟩
    exact
    { bikes := fun j hj => hbikes' j (List.ne_of_not_mem_cons hj)
      docks := fun j hj => hdocks' j (List.ne_of_not_mem_cons hj)
      cards := fun j hj => hothers j (List.ne_of_not_mem_cons hj)
      hires := fun j hj => hhires' j (List.ne_of_not_mem_cons hj)
      tickets := fun j hj => (ticketSlotAt_congr htickets).trans (ticketIn_others _ _ _ hj)
      vans := fun j _ => vanAt_congr (by rw [he, hustore, hvs]; rfl)
      tariff := by rw [he, hustore, hvs]; rfl
      captured := by rw [he, hustore, hvs]; rfl }

/-! ## A bike found, and one unloaded (R24, R97, R129) -/

/-- R24: the record of a bike docked in dock `d`. -/
def dockedBike (k : Bike) (d : Nat) : Bike := { k with state := .docked, place := some (.dock d) }

/-- What the bike side of an arrival that only docks the bike leaves, but for the manifests. -/
structure Docked (s x : Store) (d b : Nat) : Prop where
  bikes : x.fleet.bikes = (putBike s b (dockedBike (bikeAt s b) d)).fleet.bikes
  docks : x.fleet.docks = (putDock s d (landedDock (dockAt s d) b)).fleet.docks
  held : x.fleet.reservationsHeld = s.fleet.reservationsHeld
  cards : x.cards = s.cards
  hires : x.hires = s.hires
  tariff : x.tariff = s.tariff
  faults : x.faults = s.faults
  timer : x.timer = s.timer

/-- The records at the end of such an arrival. -/
structure ArrivedAt (s t : Store) (d b : Nat) (vans : List Nat) : Prop where
  bike : bikeAt t b = dockedBike (bikeAt s b) d
  dock : dockAt t d = landedDock (dockAt s d) b
  tickets : t.faults.tickets = (ticketIn s b .opened).faults.tickets
  cards : t.cards = s.cards
  timer : t.timer = s.timer
  held : SameHeld s t
  waiting : SameWaiting s t
  frame : (∀ k, k ∉ vans → vanAt t k = vanAt s k) →
    Frame s t [b] [d] [] [] (((bikeAt s b).fault.ticket.map Handle.slot).toList) vans

theorem Docked.arrivedAt {s t : Store} {x : Work} {d b : Nat} (h : Docked s x.store d b) (vans : List Nat)
    (hb : ButStations (x.moveTicket b .opened).store t) : ArrivedAt s t d b vans := by
  have he := moved_of_but hb
  have hx := bikeAt_of_put h.bikes
  have htickets := ticketIn_tickets (a := x.store) (s := s) (b := b) .opened (by rw [hx.1]; rfl) (by rw [h.faults])
  rw [htickets] at he
  obtain ⟨hbike, hbikes⟩ := bikeAt_of_put (a := s) (b := t) (j := b) (r := dockedBike (bikeAt s b) d)
    (by rw [he]; exact h.bikes)
  obtain ⟨hdock, hdocks⟩ := dockAt_of_put (a := s) (b := t) (j := d) (r := landedDock (dockAt s d) b)
    (by rw [he]; exact h.docks)
  have ht : t.faults.tickets = (ticketIn s b .opened).faults.tickets := by rw [he]
  have hcards : t.cards = s.cards := by rw [he]; exact h.cards
  have htimer : t.timer = s.timer := by rw [he]; exact h.timer
  refine ⟨hbike, hdock, ht, hcards, htimer, by rw [SameHeld, he]; exact h.held,
    by rw [SameWaiting, he]; show x.store.faults.waiting = _; rw [h.faults], fun hvans => ?_⟩
  exact
  { bikes := fun j hj => hbikes j (List.ne_of_not_mem_cons hj)
    docks := fun j hj => hdocks j (List.ne_of_not_mem_cons hj)
    cards := fun j _ => cardAt_congr (by rw [hcards])
    hires := fun j _ => hireSlotAt_congr (by rw [he]; exact h.hires)
    tickets := fun j hj => (ticketSlotAt_congr ht).trans (ticketIn_others _ _ _ hj)
    vans := hvans
    tariff := by rw [he]; exact h.tariff
    captured := by rw [htimer] }

/-- R21 to R24: an arrival at an empty dock that only docks its bike. -/
theorem arrival_docks {q : Request} {s : State} {d b : Nat} {x : Work} {notices : List Notice} {concerned : List Nat}
    {P : Store → Prop} (ht : Takes 1#8 q s) (hd : d = param q 0 2) (hb : b = param q 2 2) (hdock : d < 1024)
    (hbike : b < 2048) (hbutton : param q 4 1 = 0) (hdamage : param q 5 1 = 0)
    (hservice : (dockAt s.store d).service = .inService ∨ (dockAt s.store d).service = .outOfService)
    (hempty : (dockAt s.store d).content = .empty) (hside : bikeSideOf s.store (some b) = some b)
    (hx : (landed (begun s) d b).bikeSide b d false = (x, none, noReport)) (hdocked : Docked s.store x.store d b)
    (hn : x.notices = notices) (hstations : x.store.fleet.stations = (landed (begun s) d b).store.fleet.stations)
    (htouched : ∀ i, i ∈ x.touched ↔ i ∈ concerned)
    (hp : ∀ t, ButStations (x.moveTicket b .opened).store t → P t) :
    CompletesAt (.bikeArrived q) 1#8 q s
      { outcome := .ok
        result := le 2 b ++ le 1 (bikeAt s.store b).state.toCode ++ le 1 0 ++ le 1 0 ++ le 3 0 ++
          le 1 (bikeAt s.store b).fault.strikes ++ encFlag (bikeAt s.store b).fault.condemned }
      notices (bumped s.store d 1) concerned P := by
  have hl := landed_landed (w := begun s) (b := b) hempty
  obtain ⟨-, -, hynotices, hytouched⟩ := moveTicket_eq x b .opened
  have hy := hdocked.arrivedAt [] (.refl (x.moveTicket b .opened).store)
  have hdue : serviceDue x.set (bikeAt s.store b).rides (bikeAt (x.moveTicket b .opened).store b).rides = false := by
    rw [hy.bike]
    simp [serviceDue, dockedBike]
  have hrule := arrive_plain (w := begun s) hempty hside hx hdue
  rw [arrivalRecord_plain (k := bikeAt s.store b) (by rw [hy.dock]; rfl) (by rw [hy.bike]; rfl)] at hrule
  refine completesAt_of (w := x.moveTicket b .opened) ht rfl
    ((bikeArrived_plain (w := begun s) hd hb hdock hbike hbutton hdamage hservice).trans (hrule.trans ?_))
    (hynotices.trans hn) (fun i => ?_) (fun i => by rw [hytouched, htouched]) hp
  · rw [Option.map_none, Option.getD_none, List.append_nil]
    rfl
  · exact (stationAt_congr (by rw [(moveTicket_eq x b .opened).1, ticketIn_eq]; exact hstations)).trans (hl.stations i)

/-- A landed bike docked, the manifests apart. -/
theorem Landed.docked {a v : Work} {x : Store} {d b : Nat} (h : Landed a v d b)
    (hx : x = { putBike v.store b (dockedBike (bikeAt v.store b) d) with vans := x.vans }) : Docked a.store x d b := by
  rw [h.bike_same, h.store] at hx
  constructor <;> (rw [hx]; rfl)

/-- The stations concerned when a landed bike is docked. -/
theorem Landed.dockBike_touched {v : Work} {s : State} {d b : Nat} (h : Landed (begun s) v d b) (i : Nat) :
    i ∈ (v.dockBike b d).touched ↔ i ∈ stationsOfBike s.store b ∨ i ∈ stationsOfDock s.store d := by
  have hplace := fun p => placeStation_congr h.sameDockStations p
  unfold Work.dockBike
  simp only [setBike_touched, List.mem_append, h.touched, hplace, h.bike_same]
  change ((i ∈ [] ∨ i ∈ stationsOfDock s.store d) ∨ i ∈ stationsOfBike s.store b) ∨ i ∈ stationsOfDock s.store d ↔ _
  simp only [List.not_mem_nil, false_or]
  exact ⟨fun h => h.elim Or.symm Or.inr, fun h => h.elim (fun h => Or.inl (Or.inr h)) Or.inr⟩

theorem bikeSide_missing {v : Work} {b d : Nat} (hs : (bikeAt v.store b).state = .missing) :
    v.bikeSide b d false = ((v.dockBike b d).raiseNotice (.bikeFound b d), none, noReport) := by
  unfold Work.bikeSide
  dsimp only
  rw [hs]
  rfl

theorem bikeSide_inVan {v : Work} {b d k : Nat} (hs : (bikeAt v.store b).state = .inVan)
    (hp : (bikeAt v.store b).place = some (.van k)) :
    v.bikeSide b d false = ((v.leaveManifest k b).dockBike b d, none, noReport) := by
  unfold Work.bikeSide
  dsimp only
  rw [hs]
  dsimp only
  rw [hp]
  rfl

/-- Settles O36: both arrivals only dock the bike (`arrival_docks`). -/
theorem arrivalFindsOrUnloads : Obligations.ArrivalFindsOrUnloads := by
  intro q s d b ht hd hb hdock hbike hbutton hdamage hservice hempty k docked tickets reply
  have hl := landed_landed (w := begun s) (b := b) hempty
  have hk : bikeAt (landed (begun s) d b).store b = k := hl.bike_same b
  have hvans : (landed (begun s) d b).store.vans = s.store.vans := by rw [hl.store]; rfl
  refine ⟨fun hstate => ?_, fun v hstate hplace => ?_⟩
  · have hx := hl.docked (x := ((landed (begun s) d b).dockBike b d).store) rfl
    have harrival := arrival_docks (P := fun t => docked t ∧ Frame s.store t [b] [d] [] [] tickets []) ht hd hb hdock
      hbike hbutton hdamage hservice hempty (bikeSideOf_recorded hstate (by decide) (by decide))
      (bikeSide_missing (by rw [hk]; exact hstate)) hx
      (notices := [.bikeFound b d]) (by rw [raiseNotice_notices]; exact congrArg (· ++ [_]) hl.notices) rfl
      (concerned := stationsOfBike s.store b ++ stationsOfDock s.store d)
      (fun i => (hl.dockBike_touched i).trans List.mem_append.symm) (fun t hbut => by
        have ha := hx.arrivedAt (x := ((landed (begun s) d b).dockBike b d).raiseNotice _) [] hbut
        refine ⟨⟨ha.bike, ha.dock, ha.tickets, ha.cards, ha.timer, ha.held, ha.waiting⟩, ha.frame fun j _ => ?_⟩
        rw [moved_of_but hbut]
        exact vanAt_congr hvans)
    rw [hstate] at harrival
    exact harrival
  · have hx := hl.docked (x := (((landed (begun s) d b).leaveManifest v b).dockBike b d).store) rfl
    have hnone : stationsOfBike s.store b = [] := by
      rw [stationsOfBike, show (bikeAt s.store b).place = _ from hplace]
      rfl
    have harrival := arrival_docks (P := fun t => docked t ∧
        vanAt t v = { vanAt s.store v with manifest := (vanAt s.store v).manifest.filter (· ≠ b) } ∧
        Frame s.store t [b] [d] [] [] tickets [v]) ht hd hb hdock hbike hbutton hdamage hservice hempty
      (bikeSideOf_recorded hstate (by decide) (by decide))
      (bikeSide_inVan (by rw [hk]; exact hstate) (by rw [hk]; exact hplace)) hx (notices := []) hl.notices rfl
      (concerned := stationsOfDock s.store d)
      (fun i => (hl.dockBike_touched i).trans (by rw [hnone, or_iff_right List.not_mem_nil])) (fun t hbut => by
        have ha := hx.arrivedAt (x := ((landed (begun s) d b).leaveManifest v b).dockBike b d) [v] hbut
        have he := moved_of_but hbut
        obtain ⟨hvan, hothers⟩ := vanAt_of_put (a := s.store) (b := t) (j := v)
          (r := { vanAt s.store v with manifest := (vanAt s.store v).manifest.filter (· ≠ b) }) (by
            rw [he]
            show (putVan (landed (begun s) d b).store v _).vans = _
            rw [hl.store]
            rfl)
        exact ⟨⟨ha.bike, ha.dock, ha.tickets, ha.cards, ha.timer, ha.held, ha.waiting⟩, hvan,
          ha.frame fun j hj => hothers j (List.ne_of_not_mem_cons hj)⟩)
    rw [hstate] at harrival
    exact harrival

end Sys2Proof.Proofs
end

section
/-! PROOF. Removals at an open latch (O37). -/

namespace Sys2Proof.Proofs

open Sys2Proof Sys2Proof.Machine Sys2Proof.Laws

-- One thread: the whole text is compiled in one process, whose threads the check limits.
set_option Elab.async false

/-! ## BIKE_REMOVED (R25, R54, R125) -/

/-- R25: the record of a dock whose content has been taken out. -/
def emptiedDock (r : Dock) : Dock := { r with content := .empty, latch := .latched, lastLapse := none }

/-- R54: the work of a ride begun, in its store. -/
theorem beginRide_store {w : Work} {d : Nat} {h : Handle} {r : Hire} (hr : hireAt w.store h = some r) :
    (w.beginRide d h).store =
      { putDock (putBike (putHireSlot w.store h.slot
          { hireSlotAt w.store h.slot with hire := some { r with state := .riding, startTime := some w.now } }) r.bike
          { bikeAt w.store r.bike with state := .onHire, place := some (.hire h) }) d
          (emptiedDock (dockAt w.store d)) with
        timer.deadlines := insertEntry ⟨.overdue h, dueAt w.now w.set.overduePoint⟩
          (dropEntry (.releaseWindow h) w.store.timer.deadlines) } := by
  unfold Work.beginRide
  rw [hr]
  rfl

theorem beginRide_touched {w : Work} {d : Nat} {h : Handle} {r : Hire} (hr : hireAt w.store h = some r) (i : Nat) :
    i ∈ (w.beginRide d h).touched ↔
      i ∈ w.touched ∨ i ∈ stationsOfBike w.store r.bike ∨ i ∈ stationsOfDock w.store d := by
  have hplace : ∀ x p, placeStation (w.setHire h x).store p = placeStation w.store p :=
    fun x p => placeStation_congr (fun _ => rfl) p
  unfold Work.beginRide
  rw [hr]
  simp only [addEntry_touched, removeEntry_touched, Work.emptyDock, setDock_touched, setBike_touched, hplace,
    List.mem_append]
  change (((i ∈ w.touched ∨ i ∈ stationsOfBike w.store r.bike) ∨ i ∈ []) ∨ i ∈ stationsOfDock w.store d) ∨
    i ∈ stationsOfDock w.store d ↔ _
  simp only [List.not_mem_nil, or_false, or_assoc, or_self]

/-- R125: the work of a completed load, in its store. -/
theorem completeLoad_store (w : Work) (d v b : Nat) :
    (w.completeLoad d v b).store =
      { putDock (putBike (putVan w.store v
          { vanAt w.store v with manifest := (vanAt w.store v).manifest ++ [b], load := none }) b
          { bikeAt w.store b with state := .inVan, place := some (.van v) }) d (emptiedDock (dockAt w.store d)) with
        faults.tickets := (ticketIn w.store b .collected).faults.tickets
        timer.deadlines := dropEntry (.loadWindow v) w.store.timer.deadlines } := by
  obtain ⟨x, hx⟩ : ∃ x : Work, (((w.setVan v
      { vanAt w.store v with manifest := (vanAt w.store v).manifest ++ [b], load := none }).setBike b
      { bikeAt w.store b with state := .inVan, place := some (.van v) }).emptyDock d).removeEntry (.loadWindow v) = x :=
    ⟨_, rfl⟩
  have hbike := (bikeAt_of_put (a := w.store) (b := x.store) (j := b)
    (r := { bikeAt w.store b with state := .inVan, place := some (.van v) }) (by rw [← hx]; rfl)).1
  have hload : w.completeLoad d v b = x.moveTicket b .collected := by
    rw [← hx]
    rfl
  rw [hload, (moveTicket_eq x b .collected).1, ticketIn_eq,
    ticketIn_tickets (s := w.store) .collected (by rw [hbike]) (by rw [← hx]; rfl), ← hx]
  rfl

theorem completeLoad_touched (w : Work) (d v b i : Nat) :
    i ∈ (w.completeLoad d v b).touched ↔
      i ∈ w.touched ∨ i ∈ stationsOfBike w.store b ∨ i ∈ stationsOfDock w.store d := by
  have hplace : ∀ x p, placeStation (w.setVan v x).store p = placeStation w.store p :=
    fun x p => placeStation_congr (fun _ => rfl) p
  unfold Work.completeLoad
  rw [(moveTicket_eq _ b .collected).2.2.2]
  simp only [removeEntry_touched, Work.emptyDock, setDock_touched, setBike_touched, hplace, List.mem_append]
  change (((i ∈ w.touched ∨ i ∈ stationsOfBike w.store b) ∨ i ∈ []) ∨ i ∈ stationsOfDock w.store d) ∨
    i ∈ stationsOfDock w.store d ↔ _
  simp only [List.not_mem_nil, or_false, or_assoc, or_self]

/-- The change of a station's net flow reads the dock's station and the station's record. -/
theorem bumped_congr {a s : Store} {d : Nat} (hd : (dockAt a d).station = (dockAt s d).station)
    (hs : a.fleet.stations = s.fleet.stations) (change : Int) (i : Nat) : bumped a d change i = bumped s d change i := by
  unfold bumped
  rw [hd, stationAt_congr hs]

/-- R25: a removal whose report does not name another bike. -/
theorem bikeRemoved_taken {w x : Work} {q : Request} {d b : Nat} {kind : RemovalKind} {h : Option Handle}
    {v : Option Nat} (hd : d = param q 0 2) (hdock : d < 1024) (hreport : param q 2 2 = b ∨ param q 2 2 = 65534)
    (hb : b < 2048) (hs : (dockAt w.store d).service ≠ .undefined) (hc : (dockAt w.store d).content = .bike b)
    (hx : w.takeOut d = (x, kind, h, v)) :
    bikeRemoved w q = ({ outcome := .ok, result := removalRecord x.store kind h v }, x) := by
  have hgood : ¬ (Config.docks ≤ d ∨ goodReport (param q 2 2) = false) := by
    rintro (h | h)
    · exact absurd hdock (Nat.not_lt.mpr h)
    · rcases hreport with hr | hr <;> simp [goodReport, Config.bikes, unread, hr, hb] at h
  have hmatch : mismatch (.bike b) (reportOf (param q 2 2)) = false := by
    rcases hreport with hr | hr
    · rw [hr, show reportOf b = some b from if_neg (by unfold unread; omega)]
      exact bne_self_eq_false b
    · rw [hr]
      rfl
  unfold bikeRemoved
  dsimp only
  rw [← hd, if_neg hgood, if_neg hs, hx, hc, hmatch]
  rfl

/-- The end of a removal: the net flow of the dock's station falls, and the rest stands as the removal left it. -/
theorem removal_completes {q : Request} {s : State} {d b : Nat} {x : Work} {kind : RemovalKind} {h : Option Handle}
    {v : Option Nat} {P : Store → Prop} (ht : Takes 2#8 q s) (hd : d = param q 0 2) (hdock : d < 1024)
    (hreport : param q 2 2 = b ∨ param q 2 2 = 65534) (hb : b < 2048)
    (hs : (dockAt s.store d).service ≠ .undefined) (hc : (dockAt s.store d).content = .bike b)
    (hx : (begun s).takeOut d = (x.bumpDock d (-1), kind, h, v)) (hn : x.notices = [])
    (hstations : x.store.fleet.stations = s.store.fleet.stations)
    (hdocks : (dockAt x.store d).station = (dockAt s.store d).station)
    (htouched : ∀ i, i ∈ x.touched ↔
      i ∈ (begun s).touched ∨ i ∈ stationsOfBike s.store b ∨ i ∈ stationsOfDock s.store d)
    (hp : ∀ t, ButStations x.store t → P t) :
    CompletesAt (.bikeRemoved q) 2#8 q s
      { outcome := .ok, result := removalRecord (x.bumpDock d (-1)).store kind h v } [] (bumped s.store d (-1))
      (stationsOfBike s.store b ++ stationsOfDock s.store d) P := by
  obtain ⟨-, hnotes, hbut, hat, htouch⟩ := bumpDock_eq x d (-1)
  refine completesAt_of ht rfl (bikeRemoved_taken (w := begun s) hd hdock hreport hb hs hc hx) (hnotes.trans hn)
    (fun i => (hat i).trans (bumped_congr hdocks hstations _ i)) (fun i => ?_) (fun t hb => hp t (hbut.trans hb))
  rw [htouch, List.mem_append, htouched, show stationsOfDock x.store d = stationsOfDock s.store d from
    congrArg Option.toList hdocks, List.mem_append]
  change (i ∈ [] ∨ _) ∨ _ ↔ _
  simp only [List.not_mem_nil, false_or]
  exact ⟨fun h => h.elim id Or.inr, Or.inl⟩

/-- Settles O37: `beginRide_store` and `completeLoad_store`. -/
theorem removalAtOpenLatch : Obligations.RemovalAtOpenLatch := by
  intro q s d b now ht hd hdock hreport hb hs hc hclock emptied same
  have hnow : (begun s).now = now := by rw [Work.now, begun, hclock]; rfl
  refine ⟨fun h r hlatch hr hrb => ?_, fun v hlatch => ?_⟩
  · subst hrb
    have hstore := beginRide_store (w := begun s) (d := d) hr
    have htouched := beginRide_touched (w := begun s) (d := d) hr
    have hnotes : ((begun s).beginRide d h).notices = [] := by
      unfold Work.beginRide
      rw [show hireAt (begun s).store h = some r from hr]
      rfl
    rw [hnow] at hstore
    have hx : (begun s).takeOut d = (((begun s).beginRide d h).bumpDock d (-1), .ride, some h, none) := by
      unfold Work.takeOut
      rw [show (dockAt (begun s).store d).latch = _ from hlatch]
    generalize (begun s).beginRide d h = x at hstore htouched hnotes hx
    refine removal_completes ht hd hdock hreport hb hs hc hx hnotes (by rw [hstore]; rfl) ?_ htouched (fun t hbut => ?_)
    · rw [(dockAt_of_put (a := s.store) (b := x.store) (j := d) (r := emptied) (by rw [hstore]; rfl)).1]
    · have he := hbut.eq
      rw [hstore] at he
      obtain ⟨hdk, hdocks⟩ := dockAt_of_put (a := s.store) (b := t) (j := d) (r := emptied) (by rw [he]; rfl)
      obtain ⟨hbk, hbikes⟩ := bikeAt_of_put (a := s.store) (b := t) (j := r.bike)
        (r := { bikeAt s.store r.bike with state := .onHire, place := some (.hire h) }) (by rw [he]; rfl)
      obtain ⟨hhr, hhires⟩ := hireSlotAt_of_put (a := s.store) (b := t) (j := h.slot)
        (r := { hireSlotAt s.store h.slot with hire := some { r with state := .riding, startTime := some now } })
        (by rw [he]; rfl)
      refine ⟨⟨hdk, by rw [he]; rfl, by rw [he]; exact hclock, by rw [SameHeld, he]; rfl, by rw [SameWaiting, he]; rfl⟩,
        hhr, hbk, by rw [he]; rfl, ?_⟩
      exact
      { bikes := fun j hj => hbikes j (List.ne_of_not_mem_cons hj)
        docks := fun j hj => hdocks j (List.ne_of_not_mem_cons hj)
        cards := fun j _ => cardAt_congr (by rw [he]; rfl)
        hires := fun j hj => hhires j (List.ne_of_not_mem_cons hj)
        tickets := fun j _ => ticketSlotAt_congr (by rw [he]; rfl)
        vans := fun j _ => vanAt_congr (by rw [he]; rfl)
        tariff := by rw [he]; rfl
        captured := by rw [he]; rfl }
  · have hstore := completeLoad_store (begun s) d v b
    have htouched := completeLoad_touched (begun s) d v b
    have hnotes : ((begun s).completeLoad d v b).notices = [] := (moveTicket_eq _ b .collected).2.2.1
    have hx : (begun s).takeOut d = (((begun s).completeLoad d v b).bumpDock d (-1), .van, none, some v) := by
      unfold Work.takeOut
      rw [show (dockAt (begun s).store d).latch = _ from hlatch, show (dockAt (begun s).store d).content = _ from hc]
    generalize (begun s).completeLoad d v b = x at hstore htouched hnotes hx
    have hvan := vanAt_of_put (a := s.store) (b := x.store) (j := v)
      (r := { vanAt s.store v with manifest := (vanAt s.store v).manifest ++ [b], load := none }) (by rw [hstore]; rfl)
    have hresult : removalRecord (x.bumpDock d (-1)).store .van none (some v) =
        le 1 1 ++ encHandle none ++ encStation (some v) ++ le 1 ((vanAt s.store v).manifest.length + 1) := by
      have hbump := bumpDock_eq x d (-1)
      have hlen : (vanAt (x.bumpDock d (-1)).store v).manifest.length = (vanAt s.store v).manifest.length + 1 := by
        rw [vanAt_congr hbump.2.2.1.vans, hvan.1]
        simp
      unfold removalRecord
      dsimp only
      rw [hlen]
      simp only [RemovalKind.toCode, List.append_assoc]
    rw [← hresult]
    refine removal_completes ht hd hdock hreport hb hs hc hx hnotes (by rw [hstore]; rfl) ?_ htouched (fun t hbut => ?_)
    · rw [(dockAt_of_put (a := s.store) (b := x.store) (j := d) (r := emptied) (by rw [hstore]; rfl)).1]
    · have he := hbut.eq
      rw [hstore] at he
      obtain ⟨hdk, hdocks⟩ := dockAt_of_put (a := s.store) (b := t) (j := d) (r := emptied) (by rw [he]; rfl)
      obtain ⟨hbk, hbikes⟩ := bikeAt_of_put (a := s.store) (b := t) (j := b)
        (r := { bikeAt s.store b with state := .inVan, place := some (.van v) }) (by rw [he]; rfl)
      obtain ⟨hvn, hvans⟩ := vanAt_of_put (a := s.store) (b := t) (j := v)
        (r := { vanAt s.store v with manifest := (vanAt s.store v).manifest ++ [b], load := none }) (by rw [he]; rfl)
      have htickets : t.faults.tickets = (ticketIn s.store b .collected).faults.tickets := by
        rw [he]
        rfl
      refine ⟨⟨hdk, by rw [he]; rfl, by rw [he]; exact hclock, by rw [SameHeld, he]; rfl, by rw [SameWaiting, he]; rfl⟩,
        hvn, hbk, by rw [he]; rfl, htickets, ?_⟩
      exact
      { bikes := fun j hj => hbikes j (List.ne_of_not_mem_cons hj)
        docks := fun j hj => hdocks j (List.ne_of_not_mem_cons hj)
        cards := fun j _ => cardAt_congr (by rw [he]; rfl)
        hires := fun j _ => hireSlotAt_congr (by rw [he]; rfl)
        tickets := fun j hj => (ticketSlotAt_congr htickets).trans (ticketIn_others _ _ _ hj)
        vans := fun j hj => hvans j (List.ne_of_not_mem_cons hj)
        tariff := by rw [he]; rfl
        captured := by rw [he]; rfl }

end Sys2Proof.Proofs
end

section
/-! PROOF. Faults raised: DOCK_STATUS (O38), CREW_FLAG (O39), and the serving of the waiting list (O42). -/

namespace Sys2Proof.Proofs

open Sys2Proof Sys2Proof.Machine Sys2Proof.Laws

-- One thread: the whole text is compiled in one process, whose threads the check limits.
set_option Elab.async false

/-! ## Numbers in range -/

theorem not_docks_le {d : Nat} (h : d < 1024) : ¬ Config.docks ≤ d := Nat.not_le.mpr h
theorem not_bikes_le {b : Nat} (h : b < 2048) : ¬ Config.bikes ≤ b := Nat.not_le.mpr h

/-! ## The strike rule (R95) -/

theorem countStrike_none {set : Settings} {c : Cause} (h : (policyOf set c).countsStrike = false) (sub : Subject)
    (f : FaultState) : countStrike set sub c f = f := by
  unfold countStrike
  rw [h]
  rfl

theorem countStrike_counts {set : Settings} {c : Cause} (h : (policyOf set c).countsStrike = true) (sub : Subject)
    (f : FaultState) :
    countStrike set sub c f =
      { f with
        strikes := min (f.strikes + 1) 15
        condemned := f.condemned ||
          (decide (strikeLimit set sub ≤ min (f.strikes + 1) 15) && (policyOf set c).permanent) } := by
  unfold countStrike
  rw [if_pos h]

/-- A strike leaves the ticket and the pending cause. -/
theorem countStrike_same (set : Settings) (sub : Subject) (c : Cause) (f : FaultState) :
    (countStrike set sub c f).ticket = f.ticket ∧ (countStrike set sub c f).pending = f.pending := by
  unfold countStrike
  split <;> exact ⟨rfl, rfl⟩

/-! ## The four places of a fault (R94) -/

section
variable {w : Work} {sub : Subject} {c : Cause}

theorem placeFault_opens {k : Nat} (ht : (faultOf w.store sub).ticket = none)
    (hp : (faultOf w.store sub).pending = none) (hk : freeTicketSlot w.store = some k) :
    w.placeFault sub c none =
      (w.setTicketSlot k ⟨(ticketSlotAt w.store k).gen,
          some ⟨sub, c, openingState w.store sub, w.store.timer.clock, none⟩⟩,
        { faultOf w.store sub with ticket := some ⟨k, (ticketSlotAt w.store k).gen⟩ },
        .opened ⟨k, (ticketSlotAt w.store k).gen⟩) := by
  unfold Work.placeFault
  dsimp only
  rw [ht, hp, hk]

theorem placeFault_waits (ht : (faultOf w.store sub).ticket = none) (hp : (faultOf w.store sub).pending = none)
    (hk : freeTicketSlot w.store = none) :
    w.placeFault sub c none =
      (w.setWaiting (w.store.faults.waiting ++ [sub]), { faultOf w.store sub with pending := some c },
        .waiting c (w.store.faults.waiting.length + 1)) := by
  unfold Work.placeFault
  dsimp only
  rw [ht, hp, hk]
  simp only [List.length_append, List.length_singleton]

theorem placeFault_mergesTicket {id : Handle} (ht : (faultOf w.store sub).ticket = some id) :
    w.placeFault sub c none = (w, faultOf w.store sub, .mergedTicket id) := by
  unfold Work.placeFault
  dsimp only
  rw [ht]

theorem placeFault_mergesPending {p : Cause} (ht : (faultOf w.store sub).ticket = none)
    (hp : (faultOf w.store sub).pending = some p) :
    w.placeFault sub c none = (w, faultOf w.store sub, .mergedPending p (waitingPosition w.store sub)) := by
  unfold Work.placeFault
  dsimp only
  rw [ht, hp]

end

/-! ## A fault raised for a request (R94, R101) -/

theorem faultNotice_same (w : Work) (sub : Subject) (c : Cause) (f : FaultState) (r : FaultResult) :
    (w.faultNotice sub c none f r).store = w.store ∧ (w.faultNotice sub c none f r).touched = w.touched := by
  cases r <;> exact ⟨rfl, rfl⟩

/-- R101: the answer to a fault that is raised on a subject with no held bike. -/
theorem answerFault_raises {w u : Work} {sub : Subject} {c : Cause} {f f' : FaultState} {r : FaultResult}
    (hr : isRetired w.store sub = false) (hu : unheld w.store sub) (hp : w.placeFault sub c none = (u, f, r))
    (hf : countStrike w.set sub c f = f') (hraised : ¬ (r = .none ∨ r = .notRaised)) :
    answerFault w sub c =
      ({ outcome := .ok, result := le 1 r.toCode ++ r.given ++ le 1 f'.strikes ++ encFlag f'.condemned },
        (u.setFault sub f').faultNotice sub c none f' r) := by
  unfold answerFault
  rw [raiseFault_unheld hr hu, hp]
  dsimp only
  rw [hf]
  unfold indicationRecord
  rw [if_neg hraised, (faultNotice_same _ sub c f' r).1, (setFault_same u sub f').2.2.2.2.2.2.2.2]

/-- The end of a request that raises one fault. -/
theorem fault_completes {i : Instr} {code : Byte} {q : Request} {s : State}
    {rule : Work → Request → Reply × Work} {u : Work} {sub : Subject} {c : Cause} {f f' : FaultState}
    {r : FaultResult} {n : Notice} {result : List Byte} {P : Store → Prop} (ht : Takes code q s)
    (hi : exec i s = .next (grantRequest code (workRule rule) q s))
    (hrule : rule (begun s) q = answerFault (begun s) sub c) (hretired : isRetired s.store sub = false)
    (hu : unheld s.store sub) (hp : (begun s).placeFault sub c none = (u, f, r))
    (hf : countStrike s.settings sub c f = f') (hraised : ¬ (r = .none ∨ r = .notRaised))
    (hn : ((u.setFault sub f').faultNotice sub c none f' r).notices = (u.setFault sub f').notices ++ [n])
    (hresult : le 1 r.toCode ++ r.given ++ le 1 f'.strikes ++ encFlag f'.condemned = result)
    (hpost : ∀ t, ButStations (u.setFault sub f').store t → P t) :
    CompletesAt i code q s { outcome := .ok, result := result } [n] (stationAt s.store) (stationsOf s.store sub) P := by
  obtain ⟨hfleet, -, hnotes, htouched⟩ := placeFault_fleet (begun s) sub c none
  rw [hp] at hfleet hnotes htouched
  obtain ⟨hstore, htouch⟩ := faultNotice_same (u.setFault sub f') sub c f' r
  have hsame : stationsOf u.store sub = stationsOf s.store sub := by
    cases sub with
    | bike b =>
      exact stationsOfBike_congr (a := s.store) (fun d => by rw [dockAt_congr (congrArg FleetStore.docks hfleet)]; rfl)
        (by rw [bikeAt_congr (congrArg FleetStore.bikes hfleet)]; rfl)
    | dock d => exact congrArg (fun x : Dock => x.station.toList) (dockAt_congr (congrArg FleetStore.docks hfleet))
  refine completesAt_of ht hi (hrule.trans (hresult ▸ answerFault_raises (w := begun s) hretired hu hp hf hraised))
    (hn.trans ?_) (fun j => ?_) (fun j => ?_) (fun t hb => hpost t (hstore ▸ hb))
  · rw [(setFault_same u sub f').2.1, hnotes]
    rfl
  · rw [hstore]
    have hsf : (u.setFault sub f').store.fleet.stations = u.store.fleet.stations := by cases sub <;> rfl
    exact stationAt_congr (hsf.trans (congrArg FleetStore.stations hfleet))
  · rw [htouch, setFault_touched, htouched, hsame]
    exact or_iff_right List.not_mem_nil

/-! ## DOCK_STATUS (R101) -/

/-- R9: a dock in a station that is blocked and not RETIRED is OUT_OF_SERVICE. -/
theorem serviceOf_blocked {r : Dock} {i : Nat} (hi : r.station = some i) (hr : r.service ≠ .retired)
    (hb : blocked r.fault = true) : serviceOf r = .outOfService := by
  unfold serviceOf
  rw [hi]
  dsimp only
  rw [if_neg hr, if_pos hb]

/-- R9, R94: the fault of a dock in a station that stays blocked. -/
theorem setFault_blockedDock {w : Work} {s : Store} {d i : Nat} {f : FaultState}
    (hd : dockAt w.store d = dockAt s d) (hi : (dockAt s d).station = some i) (hr : (dockAt s d).service ≠ .retired)
    (hb : blocked f = true) :
    (w.setFault (.dock d) f).store = putDock w.store d { dockAt s d with fault := f, service := .outOfService } := by
  unfold Work.setFault
  dsimp only
  rw [hd, serviceOf_blocked (r := { dockAt s d with fault := f }) hi hr hb]
  rfl

theorem blocked_counted {set : Settings} {sub : Subject} {c : Cause} {f : FaultState}
    (h : f.ticket.isSome = true ∨ f.pending.isSome = true) : blocked (countStrike set sub c f) = true := by
  obtain ⟨ht, hp⟩ := countStrike_same set sub c f
  unfold blocked
  rw [ht, hp]
  rcases h with h | h <;> simp [h]

theorem dockStatus_ok {w : Work} {q : Request} {d : Nat} (hd : d = param q 0 2) (hdock : d < 1024)
    (hs : (dockAt w.store d).service ≠ .undefined) (h0 : param q 2 1 = 0) :
    dockStatus w q = ({ outcome := .ok, result := le 1 0 }, w) := by
  unfold dockStatus
  dsimp only
  rw [← hd, h0, if_neg (not_or.mpr ⟨not_docks_le hdock, by decide⟩), if_neg hs]
  rfl

theorem dockStatus_raises {w : Work} {q : Request} {d : Nat} {c : Cause} (hd : d = param q 0 2) (hdock : d < 1024)
    (hs : (dockAt w.store d).service ≠ .undefined)
    (hc : (param q 2 1, c) ∈ [(1, Cause.dLatch), (2, Cause.dReader), (3, Cause.dPower)]) :
    dockStatus w q = answerFault w (.dock d) c := by
  have hreport : param q 2 1 ≤ 3 ∧ reportCause (param q 2 1) = some c := by
    simp only [List.mem_cons, Prod.mk.injEq, List.not_mem_nil, or_false] at hc
    rcases hc with ⟨h, rfl⟩ | ⟨h, rfl⟩ | ⟨h, rfl⟩ <;> rw [h] <;> exact ⟨by decide, rfl⟩
  unfold dockStatus
  dsimp only
  rw [← hd, if_neg (not_or.mpr ⟨not_docks_le hdock, Nat.not_lt.mpr hreport.1⟩), if_neg hs, hreport.2]

/-- Settles O38: each place of the fault is `fault_completes`. -/
theorem dockStatusRaisesFault : Obligations.DockStatusRaisesFault := by
  refine ⟨?_, fun set sub c f => ⟨fun h => countStrike_none h sub f, fun h => ?_⟩⟩
  · intro q s d i ht hd hdock hs r gen put answer
    refine ⟨fun h0 => completes_answer ht rfl (dockStatus_ok (w := begun s) hd hdock hs h0), fun c hc => ?_⟩
    have hrule := dockStatus_raises (w := begun s) hd hdock hs hc
    refine ⟨fun hretired => completes_answer ht rfl (hrule.trans ?_), fun hr hi hheld => ?_⟩
    · unfold answerFault
      rw [raiseFault_retired (w := begun s) (sub := .dock d) (decide_eq_true hretired)]
      rfl
    · have hretired : isRetired s.store (.dock d) = false := decide_eq_false hr
      have hstation : stationsOf s.store (.dock d) = [i] := congrArg Option.toList hi
      have hset : ∀ {u : Work} {f : FaultState}, u.store.fleet = s.store.fleet → blocked f = true →
          (u.setFault (.dock d) f).store = putDock u.store d { r with fault := f, service := .outOfService } :=
        fun hu hb => setFault_blockedDock (dockAt_congr (congrArg FleetStore.docks hu)) hi hr hb
      rw [← hstation]
      refine ⟨fun k hticket hpending hk => ?_, fun hticket hpending hk => ?_, fun id hticket => ?_,
        fun p hticket hpending => ?_⟩
      · refine fault_completes ht rfl hrule hretired hheld (placeFault_opens (w := begun s) hticket hpending hk) rfl
          (by simp) rfl rfl (fun t hb => ?_)
        have he := hb.eq
        rw [hset rfl (blocked_counted (Or.inl rfl))] at he
        exact he
      · refine fault_completes ht rfl hrule hretired hheld (placeFault_waits (w := begun s) hticket hpending hk) rfl
          (by simp) rfl rfl (fun t hb => ?_)
        have he := hb.eq
        rw [hset rfl (blocked_counted (Or.inr rfl))] at he
        exact he
      · refine fault_completes ht rfl hrule hretired hheld (placeFault_mergesTicket (w := begun s) hticket) rfl
          (by simp) rfl rfl (fun t hb => ?_)
        have he := hb.eq
        rw [hset rfl (blocked_counted (f := faultOf (begun s).store (.dock d)) (Or.inl (Option.isSome_of_mem hticket)))] at he
        exact he
      · refine fault_completes ht rfl hrule hretired hheld (placeFault_mergesPending (w := begun s) hticket hpending) rfl
          (by simp) rfl rfl (fun t hb => ?_)
        have he := hb.eq
        rw [hset rfl (blocked_counted (f := faultOf (begun s).store (.dock d)) (Or.inr (Option.isSome_of_mem hpending)))] at he
        exact he
  · rw [countStrike_counts h]
    refine ⟨rfl, ?_, rfl, rfl⟩
    simp only [Bool.or_eq_true, Bool.and_eq_true, decide_eq_true_eq]

/-! ## CREW_FLAG (R97, R102) -/

/-- R97: the state of a ticket opened on a bike. -/
theorem openingState_bike {st : Store} {r : Bike} {b : Nat} (h : (bikeAt st b).state = r.state) :
    openingState st (.bike b) =
      if r.state = .inVan then .collected else if r.state = .workshop then .inWorkshop else .opened := by
  unfold openingState
  dsimp only
  rw [h]
  cases r.state <;> rfl

theorem setFault_state (w : Work) (b : Nat) (f : FaultState) :
    (bikeAt (w.setFault (.bike b) f).store b).state = (bikeAt w.store b).state := by
  change (bikeAt (putBike w.store b { bikeAt w.store b with fault := f }) b).state = _
  rw [bikeAt_putBike_same]

theorem placeRefusal_none {st : Store} {v : Nat} {p : Option Place}
    (h : p = some (.van v) ∨ ∃ d, p = some (.dock d) ∧ claimsDock st v d = true) : placeRefusal st v p = none := by
  rcases h with rfl | ⟨d, rfl, hd⟩
  · exact if_pos rfl
  · exact if_pos hd

theorem crewFlag_raises {s : State} {q : Request} {v b : Nat} (hv : Crewed s.store q v) (hb : b = param q 8 2)
    (hbike : b < 2048) (hp : (bikeAt s.store b).place = some (.van v) ∨
      ∃ d, (bikeAt s.store b).place = some (.dock d) ∧ claimsDock s.store v d = true) :
    crewFlag (begun s) q = answerFault (begun s) (.bike b) .bCrewFlag := by
  unfold crewFlag
  rw [crewed_of hv]
  dsimp only
  rw [← hb, if_neg (not_bikes_le hbike),
    show placeRefusal (begun s).store v (bikeAt (begun s).store b).place = none from placeRefusal_none hp]

/-- Settles O39. -/
theorem crewFlagOpensTicket : Obligations.CrewFlagOpensTicket := by
  intro q s v b k ht hv hb hbike hp hstate hheld hticket hpending hk r id f state
  have hopen : openingState s.store (.bike b) = state := openingState_bike rfl
  have hopen' : ∀ x : Work, (bikeAt x.store b).state = r.state → openingState x.store (.bike b) = state :=
    fun x hx => openingState_bike hx
  refine fault_completes (sub := .bike b) ht rfl (crewFlag_raises hv hb hbike hp) (decide_eq_false hstate) hheld
    (placeFault_opens (w := begun s) hticket hpending hk) (f' := f) rfl (by simp) ?_ rfl (fun t hbut => ?_)
  · rw [← hopen' (((begun s).setTicketSlot k _).setFault (.bike b) f) (setFault_state _ b f)]
    rfl
  · rw [← hopen]
    exact hbut.eq

/-! ## Serving (R100) -/

/-- Settles O42. -/
theorem servingOpensTicket : Obligations.ServingOpensTicket := by
  intro w sub rest k c hw hk hp id f u
  obtain ⟨x, hx⟩ : ∃ x, (w.setWaiting rest).setTicketSlot k
    ⟨id.gen, some ⟨sub, c, openingState w.store sub, w.store.timer.clock, none⟩⟩ = x := ⟨_, rfl⟩
  have hserve : w.serve =
      ((x.setFault sub { f with ticket := some id, pending := none }).raiseNotice
          (.ticketOpened id sub c (openingState w.store sub) none f.strikes f.condemned true), some (id, sub)) := by
    unfold Work.serve
    rw [hw]
    dsimp only
    rw [hk, hp, ← hx]
    rfl
  obtain ⟨-, hnotes, hcards, hhires, hvans, htimer, hfaults, -, hfault⟩ :=
    setFault_same x sub { f with ticket := some id, pending := none }
  have hu : u = (x.setFault sub { f with ticket := some id, pending := none }).store := by
    rw [show u = w.serve.1.store from rfl, hserve]
    rfl
  have hslots : ∀ j, ticketSlotAt u j = ticketSlotAt (putTicketSlot w.store k
      ⟨id.gen, some ⟨sub, c, openingState w.store sub, w.store.timer.clock, none⟩⟩) j := fun j =>
    ticketSlotAt_congr (by rw [hu, hfaults, ← hx]; rfl)
  refine ⟨by rw [hserve], by rw [hu, hfaults, ← hx]; rfl, ?_, by rw [hu, hfault], ?_, fun j hj => ?_,
    by rw [hu, hcards, ← hx]; rfl, by rw [hu, hhires, ← hx]; rfl, by rw [hu, hvans, ← hx]; rfl,
    by rw [hu, htimer, ← hx]; rfl⟩
  · rw [hslots, ticketSlotAt_putTicketSlot_same]
  · rw [hserve, raiseNotice_notices, hnotes, ← hx]
    rfl
  · rw [hslots, ticketSlotAt_putTicketSlot, if_neg hj]

end Sys2Proof.Proofs
end

section
/-! PROOF. Tickets closed: FIELD_CLEAR, TICKET_CLOSE and DOCK_RESTORE (O40), and the retirement of a condemned
bike (O41). -/

namespace Sys2Proof.Proofs

open Sys2Proof Sys2Proof.Machine Sys2Proof.Laws

-- One thread: the whole text is compiled in one process, whose threads the check limits.
set_option Elab.async false

/-! ## The subject of a closed ticket (R99) -/

/-- R99: the work with the ticket of `sub` gone from its slot and from its subject. -/
def ticketGone (w : Work) (id : Handle) (sub : Subject) : Work :=
  (w.setTicketSlot id.slot ⟨((ticketSlotAt w.store id.slot).gen + 1) % 256, none⟩).setFault sub
    { faultOf w.store sub with ticket := none }

/-- A dock that may serve: in a station and not RETIRED, and not condemned. -/
structure MayServe (r : Dock) : Prop where
  station : r.station.isSome = true
  service : r.service ≠ .retired
  condemned : r.fault.condemned = false

/-- R9: the service of a dock that may serve. -/
theorem serviceOf_mayServe {r : Dock} (h : MayServe r) :
    serviceOf r = if r.fault.ticket.isSome || r.fault.pending.isSome then .outOfService else .inService := by
  obtain ⟨i, hi⟩ := Option.isSome_iff_exists.mp h.station
  unfold serviceOf blocked
  rw [hi, h.condemned, Bool.or_false]
  exact if_neg h.service

theorem serviceOf_ne_retired {r : Dock} (h : r.service ≠ .retired) : serviceOf r ≠ .retired := by
  unfold serviceOf
  split
  · decide
  · rw [if_neg h]
    split <;> decide

theorem ticketGone_bike (w : Work) (id : Handle) (b k : Nat) :
    bikeAt (ticketGone w id (.bike b)).store k =
      if k = b then { bikeAt w.store b with fault := { (bikeAt w.store b).fault with ticket := none } }
      else bikeAt w.store k :=
  bikeAt_putBike _ _ _ _

theorem ticketGone_dock (w : Work) (id : Handle) (d k : Nat) :
    dockAt (ticketGone w id (.dock d)).store k =
      if k = d then
        { dockAt w.store d with
          fault := { (dockAt w.store d).fault with ticket := none }
          service := serviceOf { dockAt w.store d with fault := { (dockAt w.store d).fault with ticket := none } } }
      else dockAt w.store k :=
  dockAt_putDock _ _ _ _

theorem overhaul_bike (w : Work) (b k : Nat) :
    bikeAt (w.overhaul (.bike b)).store k =
      if k = b then { bikeAt w.store b with fault := { (bikeAt w.store b).fault with strikes := 0 }, rides := 0 }
      else bikeAt w.store k := by
  unfold Work.overhaul
  simp only [setBike_store, bikeAt_putBike, Work.setFault, faultOf]
  split
  · simp
  · rfl

theorem overhaul_dock (w : Work) (d k : Nat) :
    dockAt (w.overhaul (.dock d)).store k =
      if k = d then
        { dockAt w.store d with
          fault := { (dockAt w.store d).fault with strikes := 0 }
          service := serviceOf { dockAt w.store d with fault := { (dockAt w.store d).fault with strikes := 0 } } }
      else dockAt w.store k :=
  dockAt_putDock _ _ _ _

/-- R99: what the close of a ticket whose subject is not condemned leaves of the subject. -/
theorem ticketGone_closes {w : Work} {id : Handle} {sub : Subject} (overhaul : Bool)
    (hc : (faultOf w.store sub).condemned = false) (hs : Serviceable w.store sub) :
    SubjectClosed w.store (ticketGone (if overhaul then w.overhaul sub else w) id sub).store overhaul sub := by
  cases sub with
  | bike b =>
    cases overhaul with
    | false => exact ⟨fun k => ticketGone_bike w id b k, rfl⟩
    | true =>
      refine ⟨fun k => ?_, rfl⟩
      rw [if_pos rfl, ticketGone_bike, overhaul_bike, overhaul_bike]
      by_cases hk : k = b <;> simp [hk, closedFault]
  | dock d =>
    obtain ⟨hstation, hservice⟩ := hs
    cases overhaul with
    | false =>
      refine ⟨fun k => ?_, rfl⟩
      have hmay : MayServe { dockAt w.store d with fault := { (dockAt w.store d).fault with ticket := none } } :=
        ⟨hstation, hservice, hc⟩
      rw [if_neg (by decide), ticketGone_dock, serviceOf_mayServe hmay]
      by_cases hk : k = d <;> simp [hk, closedFault]
    | true =>
      refine ⟨fun k => ?_, rfl⟩
      have hmay : MayServe
          { dockAt w.store d with
            fault := { (dockAt w.store d).fault with strikes := 0, ticket := none }
            service := serviceOf { dockAt w.store d with fault := { (dockAt w.store d).fault with strikes := 0 } } } :=
        ⟨hstation, serviceOf_ne_retired (r := { dockAt w.store d with
          fault := { (dockAt w.store d).fault with strikes := 0 } }) hservice, hc⟩
      rw [if_pos rfl, ticketGone_dock, overhaul_dock, overhaul_dock, if_pos rfl, serviceOf_mayServe hmay]
      by_cases hk : k = d <;> simp [hk, closedFault]

/-- R99: but for the subject and the ticket table, the close of a ticket leaves every record. -/
theorem ticketGone_store (w : Work) (id : Handle) (sub : Subject) (overhaul : Bool) :
    let x := (ticketGone (if overhaul then w.overhaul sub else w) id sub).store
    x = { w.store with
      fleet.bikes := x.fleet.bikes, fleet.docks := x.fleet.docks
      faults.tickets :=
        (putTicketSlot w.store id.slot ⟨((ticketSlotAt w.store id.slot).gen + 1) % 256, none⟩).faults.tickets } := by
  cases sub <;> cases overhaul <;> rfl

theorem ticketGone_notices (w : Work) (id : Handle) (sub : Subject) (overhaul : Bool) :
    (ticketGone (if overhaul then w.overhaul sub else w) id sub).notices = w.notices := by
  cases sub <;> cases overhaul <;> rfl

theorem overhaul_touched (w : Work) (sub : Subject) (i : Nat) :
    (i ∈ (w.overhaul sub).touched ↔ i ∈ w.touched ∨ i ∈ stationsOf w.store sub) ∧
      stationsOf (w.overhaul sub).store sub = stationsOf w.store sub := by
  cases sub with
  | bike b =>
    refine ⟨?_, ?_⟩
    · unfold Work.overhaul
      dsimp only
      rw [mem_setBike_touched (by rfl), setFault_touched]
      simp [Work.setFault, stationsOf, stationsOfBike, placeStation]
    · change stationsOfBike _ b = stationsOfBike w.store b
      exact stationsOfBike_congr (a := w.store) (b := (w.overhaul (.bike b)).store) (fun _ => rfl) (by rw [overhaul_bike w b b, if_pos rfl])
  | dock d =>
    refine ⟨?_, ?_⟩
    · exact setFault_touched w (.dock d) _ i
    · change stationsOfDock _ _ = stationsOfDock _ _
      unfold stationsOfDock
      rw [overhaul_dock, if_pos rfl]

theorem ticketGone_touched (w : Work) (id : Handle) (sub : Subject) (overhaul : Bool) (i : Nat) :
    i ∈ (ticketGone (if overhaul then w.overhaul sub else w) id sub).touched ↔
      i ∈ w.touched ∨ i ∈ stationsOf w.store sub := by
  have hgone : ∀ u : Work, i ∈ (ticketGone u id sub).touched ↔ i ∈ u.touched ∨ i ∈ stationsOf u.store sub := fun u => by
    unfold ticketGone
    rw [setFault_touched]
    cases sub <;> rfl
  obtain ⟨hover, hsame⟩ := overhaul_touched w sub i
  cases overhaul with
  | false => exact hgone w
  | true =>
    rw [if_pos rfl, hgone, hover, hsame]
    exact ⟨fun h => h.elim (fun h => h) Or.inr, Or.inl⟩

/-! ## The closing requests (R103, R105, R106) -/

theorem closeTicket_gone {w : Work} {id : Handle} {t : Ticket} (hc : (faultOf w.store t.subject).condemned = false)
    (hw : w.store.faults.waiting = []) (overhaul : Bool) :
    w.closeTicket id t overhaul =
      (ticketGone (if overhaul then w.overhaul t.subject else w) id t.subject, ⟨t.subject, t.cause, false, none⟩) :=
  closeTicket_eq hc hw overhaul

theorem cannotRetire_sound {st : Store} {sub : Subject} (h : (faultOf st sub).condemned = false) (l : List BikeState) :
    cannotRetire st l sub = false := by
  cases sub with
  | bike b =>
    unfold cannotRetire
    dsimp only
    rw [show (bikeAt st b).fault.condemned = false from h, Bool.false_and]
  | dock d => rfl

/-- The end of a request that closes a ticket whose subject is not condemned, nobody waiting. -/
theorem close_completes {i : Instr} {code : Byte} {q : Request} {s : State} {rule : Work → Request → Reply × Work}
    {id : Handle} {sub : Subject} {overhaul : Bool} {r : Reply} (ht : Takes code q s)
    (hi : exec i s = .next (grantRequest code (workRule rule) q s))
    (hrule : rule (begun s) q =
      (r, ticketGone (if overhaul then (begun s).overhaul sub else begun s) id sub))
    (hc : (faultOf s.store sub).condemned = false) (hs : Serviceable s.store sub) :
    CompletesAt i code q s r [] (stationAt s.store) (stationsOf s.store sub) (fun t =>
      SubjectClosed s.store t overhaul sub ∧
        t = { s.store with
          fleet.bikes := t.fleet.bikes, fleet.docks := t.fleet.docks, fleet.stations := t.fleet.stations
          faults.tickets :=
            (putTicketSlot s.store id.slot ⟨((ticketSlotAt s.store id.slot).gen + 1) % 256, none⟩).faults.tickets }) := by
  have hclosed := ticketGone_closes (w := begun s) (id := id) overhaul hc hs
  have hstore := ticketGone_store (begun s) id sub overhaul
  have hnotes := ticketGone_notices (begun s) id sub overhaul
  have htouched := ticketGone_touched (begun s) id sub overhaul
  generalize ticketGone (if overhaul then (begun s).overhaul sub else begun s) id sub = x at *
  refine completesAt_of ht hi hrule hnotes (fun j => ?_) (fun j => ?_) (fun t hb => ⟨?_, ?_⟩)
  · exact stationAt_congr (by rw [hstore]; rfl)
  · exact (htouched j).trans (or_iff_right List.not_mem_nil)
  · cases sub with
    | bike b => exact ⟨fun k => (bikeAt_congr hb.bikes).trans (hclosed.1 k), hb.docks.trans hclosed.2⟩
    | dock d => exact ⟨fun k => (dockAt_congr hb.docks).trans (hclosed.1 k), hb.bikes.trans hclosed.2⟩
  · have he := hb.eq
    dsimp only at hstore
    rw [hb.bikes, hb.docks]
    rw [hstore] at he
    exact he

theorem fieldClear_closes {s : State} {q : Request} {v : Nat} {id : Handle} {k : Ticket} (hv : Crewed s.store q v)
    (hid : id = handleParam q 8) (hslot : id.slot < 512) (hk : ticketAt s.store id = some k)
    (hsub : subjectRefusal s.store v k.subject = none) (hc : (faultOf s.store k.subject).condemned = false)
    (hf : fieldCloses s.settings k.cause = true) : fieldClear (begun s) q = answerClose (begun s) id k false := by
  unfold fieldClear
  rw [crewed_of hv]
  dsimp only
  rw [← hid, show namedTicket (begun s).store id = .ok k from namedTicket_of hslot hk]
  dsimp only
  rw [show subjectRefusal (begun s).store v k.subject = none from hsub,
    show cannotRetire (begun s).store [.docked] k.subject = false from cannotRetire_sound hc _]
  exact if_pos hf

theorem ticketClose_closes {w : Work} {q : Request} {id : Handle} {k : Ticket} {o : Bool} (hid : id = handleParam q 0)
    (hslot : id.slot < 512) (hk : ticketAt w.store id = some k) (ho : param q 3 1 = if o then 1 else 0)
    (hc : cannotRetire w.store [.docked, .workshop] k.subject = false) :
    ticketClose w q = answerClose w id k o := by
  unfold ticketClose
  dsimp only
  rw [← hid, namedTicket_of hslot hk, ho, if_neg (by cases o <;> decide)]
  dsimp only
  rw [hc]
  cases o <;> rfl

theorem dockRestore_closes {w : Work} {q : Request} {d : Nat} {id : Handle} {k : Ticket} (hd : d = param q 0 2)
    (hdock : d < 1024) (hf : (dockAt w.store d).fault.ticket = some id) (hk : ticketAt w.store id = some k)
    {x : Work} {c : Closing} (hx : w.closeTicket id k false = (x, c)) :
    dockRestore w q =
      ({ outcome := .ok
         result := le 1 0 ++ encHandle (some id) ++ encFlag c.retired ++ servedRecord c.served }, x) := by
  unfold dockRestore
  dsimp only
  rw [← hd, if_neg (not_docks_le hdock), hf, Option.bind_some, hk, Option.map_some]
  dsimp only
  rw [hx]

/-- Settles O40: each request ends in `ticketGone`. -/
theorem ticketsClose : Obligations.TicketsClose := by
  intro q s id k hk hslot hc hs hwaiting closed reply
  have hclose := fun o => closeTicket_gone (w := begun s) (id := id) hc hwaiting o
  have hanswer : ∀ o, answerClose (begun s) id k o =
      (reply, ticketGone (if o then (begun s).overhaul k.subject else begun s) id k.subject) := fun o => by
    unfold answerClose
    rw [hclose]
    dsimp only [reply, closingRecord, servedRecord]
    rw [← List.append_assoc]
    rfl
  refine ⟨fun v ht hv hid hsub hf => ?_, fun o ht hid ho => ?_, fun d ht hd hdock hsub hf => ?_⟩
  · exact close_completes ht rfl ((fieldClear_closes hv hid hslot hk hsub hc hf).trans (hanswer false)) hc hs
  · exact close_completes ht rfl ((ticketClose_closes (w := begun s) hid hslot hk ho (cannotRetire_sound hc _)).trans
      (hanswer o)) hc hs
  · have hconcerned : stationsOf s.store k.subject = stationsOfDock s.store d := by rw [hsub]; rfl
    rw [← hconcerned]
    refine close_completes (overhaul := false) ht rfl
      ((dockRestore_closes (w := begun s) hd hdock hf hk (hclose false)).trans ?_) hc hs
    dsimp only [servedRecord]
    rw [← List.append_assoc]
    rfl

/-! ## The retirement of a condemned bike (R98) -/

/-- R98: the work with a condemned bike of dock `d` retired, its ticket gone. -/
def retiredFrom (w : Work) (id : Handle) (b d : Nat) : Work :=
  let u := ticketGone w id (.bike b)
  (u.setBike b { bikeAt u.store b with state := .retired, place := none }).setDock d
    { dockAt w.store d with content := .unidentified, latch := .latched, lastLapse := none }

theorem closeTicket_retires {w : Work} {id : Handle} {t : Ticket} {b d : Nat} (hsub : t.subject = .bike b)
    (hc : (bikeAt w.store b).fault.condemned = true) (hstate : (bikeAt w.store b).state = .docked)
    (hplace : (bikeAt w.store b).place = some (.dock d)) (hw : w.store.faults.waiting = []) :
    w.closeTicket id t false = (retiredFrom w id b d, ⟨.bike b, t.cause, true, none⟩) := by
  have hbike := ticketGone_bike w id b b
  rw [if_pos rfl] at hbike
  have hretire : (ticketGone w id (.bike b)).retire (.bike b) = retiredFrom w id b d := by
    unfold Work.retire
    dsimp only
    rw [hbike]
    dsimp only
    rw [hstate, hplace]
    unfold retiredFrom
    dsimp only
    rw [hbike]
    rfl
  have hserve : (retiredFrom w id b d).serve = (retiredFrom w id b d, none) := serve_none hw
  unfold Work.closeTicket
  rw [if_neg (by decide), hsub]
  dsimp only
  rw [if_pos (show (faultOf w.store (.bike b)).condemned = true from hc)]
  change ((((ticketGone w id (.bike b)).retire (.bike b)).serve).1, Closing.mk _ _ _
    (((ticketGone w id (.bike b)).retire (.bike b)).serve).2) = _
  rw [hretire, hserve, show (faultOf w.store (.bike b)).condemned = true from hc]

/-- Settles O41. -/
theorem condemnedBikeRetires : Obligations.CondemnedBikeRetires := by
  intro q s id k b d ht hid ho hslot hk hsub hc hstate hplace hwaiting
  have hclose := closeTicket_retires (w := begun s) (id := id) hsub hc hstate hplace hwaiting
  have hcan : cannotRetire s.store [.docked, .workshop] k.subject = false := by
    rw [hsub]
    unfold cannotRetire
    dsimp only
    rw [hstate]
    simp
  have hrule := ticketClose_closes (w := begun s) (o := false) hid hslot hk ho hcan
  have hgone := ticketGone_bike (begun s) id b b
  rw [if_pos rfl] at hgone
  have hstore : (retiredFrom (begun s) id b d).store = putDock (putBike
      (ticketGone (begun s) id (.bike b)).store b
      { bikeAt s.store b with
        state := .retired, place := none, fault := { (bikeAt s.store b).fault with ticket := none } }) d
      { dockAt s.store d with content := .unidentified, latch := .latched, lastLapse := none } := by
    unfold retiredFrom
    dsimp only
    rw [hgone]
    rfl
  have htouched : ∀ i, i ∈ (retiredFrom (begun s) id b d).touched ↔ i ∈ stationsOfDock s.store d := fun i => by
    have hbike : stationsOf s.store (.bike b) = stationsOfDock s.store d := by
      change placeStation s.store (bikeAt s.store b).place = _
      rw [hplace]
      rfl
    have hg : i ∈ (ticketGone (begun s) id (.bike b)).touched ↔ i ∈ [] ∨ i ∈ stationsOf s.store (.bike b) :=
      ticketGone_touched (begun s) id (.bike b) false i
    rw [hbike] at hg
    unfold retiredFrom
    simp only [setDock_touched, setBike_touched, hgone, show (bikeAt (begun s).store b).place = _ from hplace,
      List.mem_append, hg]
    change ((((i ∈ [] ∨ i ∈ stationsOfDock s.store d) ∨ i ∈ stationsOfDock s.store d) ∨ i ∈ []) ∨
      i ∈ stationsOfDock s.store d) ∨ i ∈ stationsOfDock s.store d ↔ _
    simp only [List.not_mem_nil, false_or, or_false, or_self]
  have hstations : ∀ i, stationAt (retiredFrom (begun s) id b d).store i = stationAt s.store i := fun i => rfl
  have hnotes : (retiredFrom (begun s) id b d).notices = [] := rfl
  generalize retiredFrom (begun s) id b d = x at *
  refine completesAt_of ht rfl (hrule.trans ?_) hnotes hstations htouched (fun t hb => ?_)
  · unfold answerClose
    rw [hclose]
    dsimp only [closingRecord, servedRecord]
    rw [← List.append_assoc]
    rfl
  · have he := hb.eq
    rw [hstore] at he
    obtain ⟨hbk, hbikes⟩ := bikeAt_of_put (a := (ticketGone (begun s) id (.bike b)).store) (b := t) (j := b)
      (r := { bikeAt s.store b with
        state := .retired, place := none, fault := { (bikeAt s.store b).fault with ticket := none } }) (by rw [he]; rfl)
    obtain ⟨hdk, hdocks⟩ := dockAt_of_put (a := s.store) (b := t) (j := d)
      (r := { dockAt s.store d with content := .unidentified, latch := .latched, lastLapse := none }) (by rw [he]; rfl)
    have htickets : ∀ j, ticketSlotAt t j =
        if j = id.slot then ⟨((ticketSlotAt s.store id.slot).gen + 1) % 256, none⟩ else ticketSlotAt s.store j :=
      fun j => (ticketSlotAt_congr (a := putTicketSlot s.store id.slot _) (by rw [he]; rfl)).trans
        (ticketSlotAt_putTicketSlot _ _ _ _)
    refine ⟨hbk, hdk, (htickets _).trans (if_pos rfl), by rw [he]; rfl, by rw [he]; rfl, by rw [SameHeld, he]; rfl,
      by rw [SameWaiting, he]; rfl, ?_⟩
    exact
    { bikes := fun j hj => (hbikes j (List.ne_of_not_mem_cons hj)).trans
        ((ticketGone_bike (begun s) id b j).trans (if_neg (List.ne_of_not_mem_cons hj)))
      docks := fun j hj => hdocks j (List.ne_of_not_mem_cons hj)
      cards := fun j _ => cardAt_congr (by rw [he]; rfl)
      hires := fun j _ => hireSlotAt_congr (by rw [he]; rfl)
      tickets := fun j hj => (htickets j).trans (if_neg (List.ne_of_not_mem_cons hj))
      vans := fun j _ => vanAt_congr (by rw [he]; rfl)
      tariff := by rw [he]; rfl
      captured := by rw [he]; rfl }

end Sys2Proof.Proofs
end

section
/-! PROOF. Vans: shifts (O44), claims (O45), loads (O46) and the workshop (O47). -/

namespace Sys2Proof.Proofs

open Sys2Proof Sys2Proof.Machine Sys2Proof.Laws

-- One thread: the whole text is compiled in one process, whose threads the check limits.
set_option Elab.async false

/-! ## A claim cleared, and one moved (R117) -/

/-- The records once van `v` gives up the station `old`, where it claims one. -/
structure ClaimGone (s t : Store) (v : Nat) (old : Option Nat) : Prop where
  vans : ∀ k, vanAt t k = if k = v then { vanAt s v with claim := none } else vanAt s k
  stations : ∀ k, stationAt t k =
    if old = some k then { stationAt s k with claimedBy := none } else stationAt s k
  rest : t = { s with
    vans := t.vans, fleet.stations := t.fleet.stations
    timer.deadlines := if old.isSome then dropEntry (.claimExpiry v) s.timer.deadlines else s.timer.deadlines }

theorem clearClaim_gone (w : Work) (v : Nat) :
    (w.clearClaim v).2 = (vanAt w.store v).claim.map Claim.station ∧
      ClaimGone w.store (w.clearClaim v).1.store v ((vanAt w.store v).claim.map Claim.station) ∧
      (w.clearClaim v).1.set = w.set ∧ (w.clearClaim v).1.notices = w.notices ∧
      (w.clearClaim v).1.touched = w.touched := by
  cases h : (vanAt w.store v).claim with
  | none =>
    rw [clearClaim_none h]
    refine ⟨rfl, ⟨fun k => ?_, fun k => rfl, rfl⟩, rfl, rfl, rfl⟩
    split
    next hk => rw [hk, ← h]
    next => rfl
  | some c =>
    obtain ⟨h2, hstore, hrest⟩ := clearClaim_some h
    refine ⟨h2, ?_, hrest⟩
    rw [hstore]
    refine ⟨fun k => vanAt_putVan _ _ _ _, fun k => ?_, rfl⟩
    change stationAt (putStation (putVan w.store v _) c.station _) k = _
    rw [stationAt_putStation]
    rw [Option.map_some]
    by_cases hk : k = c.station
    · rw [if_pos hk, if_pos (by rw [hk]), hk]
    · rw [if_neg hk, if_neg (fun h => hk (Option.some.inj h).symm)]
      rfl

theorem moveClaim_set {w : Work} {v i due : Nat} (hdue : dueAt w.now w.set.claimDuration = due) :
    (w.moveClaim v i).2 = (if (vanAt w.store v).claim.map Claim.station = some i then none
        else (vanAt w.store v).claim.map Claim.station) ∧
      ClaimSet w.store (w.moveClaim v i).1.store v i due ((vanAt w.store v).claim.map Claim.station) ∧
      (w.moveClaim v i).1.notices = w.notices ∧ (w.moveClaim v i).1.touched = w.touched := by
  obtain ⟨hold, hgone, hset, hnotes, htouched⟩ := clearClaim_gone w v
  have hmove : w.moveClaim v i = ((w.clearClaim v).1.setClaim v i,
      if (w.clearClaim v).2 = some i then none else (w.clearClaim v).2) := rfl
  rw [hmove, hold]
  generalize (w.clearClaim v).1 = x at *
  have hxdue : dueAt x.now x.set.claimDuration = due := by
    rw [← hdue, hset, Work.now, Work.now, hgone.rest]
  have hxs : (x.setClaim v i).store =
      { putStation (putVan x.store v { vanAt x.store v with claim := some ⟨i, due⟩ }) i
          { stationAt x.store i with claimedBy := some v } with
        timer.deadlines := insertEntry ⟨.claimExpiry v, due⟩ x.store.timer.deadlines } := by
    unfold Work.setClaim
    rw [hxdue]
    rfl
  refine ⟨rfl, ?_, hnotes, htouched⟩
  rw [hxs]
  refine ⟨fun k => ?_, fun k => ?_, ?_⟩
  · change vanAt (putVan x.store v _) k = _
    rw [vanAt_putVan, hgone.vans k, hgone.vans v, if_pos rfl]
    by_cases hk : k = v <;> simp [hk]
  · change stationAt (putStation (putVan x.store v _) i _) k = _
    rw [stationAt_putStation]
    change (if k = i then _ else stationAt x.store k) = _
    rw [hgone.stations k, hgone.stations i]
    by_cases hk : k = i
    · rw [if_pos hk, if_pos hk]
      split <;> rfl
    · rw [if_neg hk, if_neg hk]
  · have hrest := hgone.rest
    generalize x.store = y at hrest
    rw [hrest]
    rfl

/-- A request whose work touches no census, its notices given. -/
theorem completes_work {c : Instr} {code : Byte} {q : Request} {s : State} {rule : Work → Request → Reply × Work}
    {r : Reply} {w : Work} {l : List Notice} {P : Store → Prop} (h : Takes code q s)
    (he : exec c s = .next (grantRequest code (workRule rule) q s)) (hr : rule (begun s) q = (r, w))
    (hn : w.notices = l) (ht : w.touched = []) (hp : P w.store) : Completes c code q s r l P :=
  hn ▸ completes_of h he hr ht hp

theorem not_loading {st : Store} {v : Nat} (h : (vanAt st v).load = none) : ¬ (vanAt st v).load.isSome = true := by
  rw [h]
  decide

theorem clock_is_set {st : Store} {now : Nat} (h : st.timer.clock = some now) : ¬ st.timer.clock.isNone = true := by
  rw [h]
  exact Bool.false_ne_true

/-! ## Shifts (R113, R114) -/

theorem vanShiftStart_taken {w : Work} {q : Request} {v slot : Nat} {c : Card} (hv : v = param q 0 1) (h8 : v < 8)
    (hd : (vanAt w.store v).isDefined = true) (hcrew : (vanAt w.store v).crew = none)
    (hn : Names w.store (param q 1 7) slot c) (hcls : c.cls = .crew) (hstatus : c.status = .active)
    (huse : ∀ u < 8, u ≠ v → (vanAt w.store u).crew ≠ some (param q 1 7)) :
    vanShiftStart w q =
      ({ outcome := .ok
         result := le 1 (vanAt w.store v).capacity ++ le 1 (freePlaces (vanAt w.store v)) ++
           manifestRecord (vanAt w.store v).manifest },
        w.setVan v { vanAt w.store v with crew := some (param q 1 7) }) := by
  have habsent : crewAbsent q = false := by simp [crewAbsent, hn.1]
  have hinuse : crewInUse w.store v (param q 1 7) = false := by
    unfold crewInUse
    rw [List.any_eq_false]
    intro u hu hx
    obtain ⟨h1, h2⟩ := Bool.and_eq_true_iff.mp hx
    exact huse u (List.mem_range.mp hu) (by simpa using h1) (by simpa using h2)
  have hrefusal : shiftRefusal w.store v (param q 1 7) = none := by
    unfold shiftRefusal
    rw [if_neg (show ¬ Config.vans ≤ v from Nat.not_le.mpr h8), hd, hcrew, hn.2]
    dsimp only
    rw [hcls, hstatus, hinuse]
    rfl
  unfold vanShiftStart
  dsimp only
  rw [habsent, ← hv, hrefusal]
  rfl

theorem vanShiftEnd_taken {s : State} {q : Request} {v : Nat} (hv : Crewed s.store q v)
    (hl : (vanAt s.store v).load = none) :
    vanShiftEnd (begun s) q =
      ({ outcome := .ok
         result := encStation ((begun s).clearClaim v).2 ++
           le 1 (vanAt ((begun s).clearClaim v).1.store v).manifest.length },
        ((begun s).clearClaim v).1.setVan v { vanAt ((begun s).clearClaim v).1.store v with crew := none }) := by
  unfold vanShiftEnd
  rw [crewed_of hv]
  dsimp only
  rw [if_neg (show ¬ (vanAt (begun s).store v).load.isSome = true from not_loading hl)]

/-- Settles O44. -/
theorem shiftsStartAndEnd : Obligations.ShiftsStartAndEnd := by
  refine ⟨fun q s v slot c ht hv h8 hd hcrew hn hcls hstatus huse => ?_, fun q s v ht hv hl => ?_⟩
  · refine completes_work ht rfl ((vanShiftStart_taken (w := begun s) hv h8 hd hcrew hn hcls hstatus huse).trans ?_)
      (w := (begun s).setVan v { vanAt s.store v with crew := some (param q 1 7) }) rfl rfl rfl
    rw [manifestRecord, ← List.append_assoc]
    rfl
  · obtain ⟨hold, hgone, -, hnotes, htouched⟩ := clearClaim_gone (begun s) v
    have hrule := vanShiftEnd_taken hv hl
    rw [hold] at hrule
    generalize ((begun s).clearClaim v).1 = x at *
    have hvan := hgone.vans v
    rw [if_pos rfl] at hvan
    rw [hvan] at hrule
    refine completes_work ht rfl hrule hnotes htouched ⟨fun k => ?_, fun k => hgone.stations k, ?_⟩
    · rw [setVan_store, vanAt_putVan, hgone.vans k]
      by_cases hk : k = v
      · rw [if_pos hk, if_pos hk]
        rfl
      · rw [if_neg hk, if_neg hk, if_neg hk]
        rfl
    · have hrest := hgone.rest
      rw [setVan_store]
      generalize x.store = y at hrest
      rw [hrest]
      rfl

/-! ## Claims (R119 to R122) -/

theorem vanSuggest_chooses {s : State} {q : Request} {v mode now : Nat} (hv : Crewed s.store q v)
    (hm : mode = param q 8 1) (h2 : mode ≤ 2) (hc : s.store.timer.clock = some now)
    (hl : (vanAt s.store v).load = none) {o : Option Nat} (ho : chooseStation s.settings s.store v mode = o) :
    vanSuggest (begun s) q =
      o.elim (refuse (begun s) .noJob) (fun i =>
        ({ outcome := .ok
           result := suggestRecord (begun s) v mode i ++ encStation ((begun s).moveClaim v i).2 },
          ((begun s).moveClaim v i).1)) := by
  have hclock : ¬ (begun s).store.timer.clock.isNone = true := clock_is_set hc
  unfold vanSuggest
  rw [crewed_of hv]
  dsimp only
  rw [← hm, if_neg (Nat.not_lt.mpr h2), if_neg hclock,
    if_neg (show ¬ (vanAt (begun s).store v).load.isSome = true from not_loading hl),
    show chooseStation (begun s).set (begun s).store v mode = o from ho]
  cases o <;> rfl

theorem vanClaim_taken {s : State} {q : Request} {v i now : Nat} (hv : Crewed s.store q v) (hi : i = param q 8 1)
    (h32 : i < 32) (hc : s.store.timer.clock = some now) (hl : (vanAt s.store v).load = none)
    (hd : (stationAt s.store i).isDefined = true)
    (hby : (stationAt s.store i).claimedBy = none ∨ (stationAt s.store i).claimedBy = some v) :
    vanClaim (begun s) q =
      ({ outcome := .ok
         result := encStation (some i) ++ encClock (claimDue (begun s)) ++
           encFlag (claimsStation (begun s).store v i) ++ encStation ((begun s).moveClaim v i).2 },
        ((begun s).moveClaim v i).1) := by
  have hrefusal : claimRefusal (begun s).store v i = none := by
    change claimRefusal s.store v i = none
    unfold claimRefusal
    rw [if_neg (show ¬ Config.stations ≤ i from Nat.not_le.mpr h32), if_neg (clock_is_set hc), if_neg (not_loading hl), hd,
      if_neg (by decide)]
    rcases hby with hby | hby <;> rw [hby]
    exact if_pos rfl
  unfold vanClaim
  rw [crewed_of hv]
  dsimp only
  rw [← hi, hrefusal]

theorem vanReleaseClaim_taken {s : State} {q : Request} {v : Nat} {c : Claim} (hv : Crewed s.store q v)
    (hl : (vanAt s.store v).load = none) (hc : (vanAt s.store v).claim = some c) :
    vanReleaseClaim (begun s) q =
      ({ outcome := .ok, result := encStation ((begun s).clearClaim v).2 }, ((begun s).clearClaim v).1) := by
  have hclaim : ¬ (vanAt (begun s).store v).claim.isNone = true := by
    rw [show (vanAt (begun s).store v).claim = some c from hc]
    exact Bool.false_ne_true
  unfold vanReleaseClaim
  rw [crewed_of hv]
  dsimp only
  rw [if_neg (show ¬ (vanAt (begun s).store v).load.isSome = true from not_loading hl), if_neg hclaim]

theorem exec_claimExpiry {hub : HubInput} {s : State} {v : Nat} {c : Claim}
    (hg : grantedHead s = some (.claimExpiry v)) (hc : (vanAt s.store v).claim = some c) :
    exec (.claimExpiry hub) s = .next (grantExpiry hub (fun w => w.lapseClaim v c) s) := by
  change execClaimExpiry hub s = _
  unfold execClaimExpiry
  rw [hg]
  dsimp only
  rw [hc]

/-- Settles O45. -/
theorem claimsAreSetAndCleared : Obligations.ClaimsAreSetAndCleared := by
  refine ⟨?_, ?_, fun q s v c ht hv hl hc => ?_, fun hub s v c ⟨hg, hclean⟩ hc => ?_⟩
  · intro q s v mode now ht hv hm h2 hc hl old
    refine ⟨fun ho => completes_answer ht rfl (vanSuggest_chooses hv hm h2 hc hl ho), fun i ho => ?_⟩
    have hnow : (begun s).now = now := by rw [Work.now, begun, hc]; rfl
    obtain ⟨hold, hset, hnotes, htouched⟩ := moveClaim_set (w := begun s) (v := v) (i := i)
      (due := heldAt (now + s.settings.claimDuration)) (by rw [hnow]; rfl)
    have hrule := vanSuggest_chooses hv hm h2 hc hl ho
    rw [Option.elim_some, hold] at hrule
    exact completes_work ht rfl hrule hnotes htouched hset
  · intro q s v i now ht hv hi h32 hc hl hd hby old due
    have hnow : (begun s).now = now := by rw [Work.now, begun, hc]; rfl
    have hdue : claimDue (begun s) = due := by rw [claimDue, hnow]; rfl
    obtain ⟨hold, hset, hnotes, htouched⟩ := moveClaim_set (w := begun s) (v := v) (i := i) hdue
    have hrule := vanClaim_taken hv hi h32 hc hl hd hby
    have hrenewed : claimsStation (begun s).store v i = decide (old = some i) := by
      rw [Bool.eq_iff_iff, decide_eq_true_iff]
      exact beq_iff_eq
    rw [hold, hdue, hrenewed] at hrule
    exact completes_work ht rfl hrule hnotes htouched hset
  · obtain ⟨hold, hstore, -, hnotes, htouched⟩ := clearClaim_some (w := begun s) hc
    have hrule := vanReleaseClaim_taken hv hl hc
    rw [hold] at hrule
    exact completes_work ht rfl hrule hnotes htouched hstore
  · obtain ⟨-, hstore, -, hnotes, htouched⟩ :=
      clearClaim_some (w := ⟨s.settings, headTaken s.store, [], []⟩) (v := v) (c := c) hc
    have h := lapses_of (P := fun t => t = claimCleared s.store v c s.store.timer.deadlines.tail) hclean
      (exec_claimExpiry hg hc) rfl htouched hstore
    rw [show (Work.lapseClaim ⟨s.settings, headTaken s.store, [], []⟩ v c).notices = _ from
      congrArg (· ++ [Notice.claimLapsed v c.station c.expiry]) hnotes] at h
    exact h

/-! ## Loads (R123, R124, R126) -/

theorem loadBike_of {st : Store} {v d b now : Nat} (hc : st.timer.clock = some now)
    (hs : (dockAt st d).service = .inService ∨ (dockAt st d).service = .outOfService)
    (hclaim : claimsDock st v d = true) (hl : (vanAt st v).load = none) (hf : 0 < freePlaces (vanAt st v))
    (hcontent : (dockAt st d).content = .bike b) (hstate : (bikeAt st b).state = .docked)
    (hheld : (bikeAt st b).heldFor = none) : loadBike st v d = .ok b := by
  have hservice : ¬ ((dockAt st d).service ≠ .inService ∧ (dockAt st d).service ≠ .outOfService) :=
    fun h => hs.elim h.1 h.2
  unfold loadBike
  dsimp only
  rw [if_neg (clock_is_set hc), if_neg hservice, hclaim, if_neg (by decide), if_neg (not_loading hl),
    if_neg (Nat.ne_of_gt hf), hcontent]
  dsimp only
  rw [hstate, hheld]
  rfl

theorem vanLoad_taken {s : State} {q : Request} {v d b now : Nat} (hv : Crewed s.store q v) (hd : d = param q 8 2)
    (hdock : d < 1024) (hnow : (begun s).now = now) (hb : loadBike s.store v d = .ok b) :
    vanLoad (begun s) q =
      ({ outcome := .ok
         result := encDock (some d) ++ encBike (some b) ++ encHandle (bikeAt s.store b).fault.ticket ++
           encClock (dueAt now s.settings.releaseWindow) }, (begun s).beginLoad v d b) := by
  unfold vanLoad
  rw [crewed_of hv]
  dsimp only
  rw [← hd, if_neg (not_docks_le hdock), show loadBike (begun s).store v d = .ok b from hb, hnow]
  rfl

theorem exec_loadWindowExpiry {hub : HubInput} {s : State} {v d b : Nat}
    (hg : grantedHead s = some (.loadWindow v)) (hl : (vanAt s.store v).load = some d)
    (hc : (dockAt s.store d).content = .bike b) :
    exec (.loadWindowExpiry hub) s = .next (grantExpiry hub (fun w => w.lapseLoad v d b) s) := by
  have hdue : dueLoad s.store v = some (d, b) := by
    unfold dueLoad
    rw [hl]
    dsimp only
    rw [hc]
  change execLoadWindowExpiry hub s = _
  unfold execLoadWindowExpiry
  rw [hg]
  dsimp only
  rw [hdue]

/-- The stations concerned by a bike and a dock rewritten where they stand. -/
theorem bikeThenDock_touched {w : Work} {b d : Nat} {r : Bike} {x : Dock}
    (hr : r.place = (bikeAt w.store b).place) (hx : x.station = (dockAt w.store d).station) (i : Nat) :
    i ∈ ((w.setBike b r).setDock d x).touched ↔
      i ∈ w.touched ∨ i ∈ stationsOfBike w.store b ∨ i ∈ stationsOfDock w.store d := by
  have hdock : stationsOfDock (w.setBike b r).store d = stationsOfDock w.store d := rfl
  rw [mem_setDock_touched (w := w.setBike b r) hx, mem_setBike_touched hr, hdock, or_assoc]

/-- Settles O46. -/
theorem loadsBeginAndLapse : Obligations.LoadsBeginAndLapse := by
  refine ⟨?_, fun hub s v d b ⟨hg, hclean⟩ hl hc => ?_⟩
  · intro q s v d b now ht hv hd hdock hc hs hclaim hl hf hcontent hstate hheld due
    have hnow : (begun s).now = now := by rw [Work.now, begun, hc]; rfl
    have hrule := vanLoad_taken hv hd hdock hnow (loadBike_of hc hs hclaim hl hf hcontent hstate hheld)
    have hstore : ((begun s).beginLoad v d b).store =
        { putVan
            (putDock (putBike s.store b { bikeAt s.store b with state := .loading }) d
              { dockAt s.store d with latch := .openForVan v })
            v { vanAt s.store v with load := some d } with
          timer.deadlines := insertEntry ⟨.loadWindow v, due⟩ s.store.timer.deadlines } := by
      unfold Work.beginLoad
      rw [hnow]
      rfl
    refine completesAt_of ht rfl hrule rfl (fun i => rfl) (fun i => ?_) (fun t hb => ?_)
    · refine (bikeThenDock_touched (w := begun s) rfl rfl i).trans ?_
      rw [List.mem_append]
      exact or_iff_right List.not_mem_nil
    · have he := hb.eq
      rw [hstore] at he
      exact he
  · refine lapsesAt_of hclean (exec_loadWindowExpiry hg hl hc) rfl rfl (fun i => rfl) (fun i => ?_) (fun t hb => hb.eq)
    refine (bikeThenDock_touched (w := ⟨s.settings, headTaken s.store, [], []⟩) rfl rfl i).trans ?_
    rw [List.mem_append]
    exact or_iff_right List.not_mem_nil

/-! ## The workshop (R104, R130) -/

/-- The stations concerned by a bike of a van rewritten where no dock is. -/
theorem vanThenBike_touched {w : Work} {v b : Nat} {r : Van} {x : Bike} (hx : ∀ st, placeStation st x.place = [])
    (i : Nat) : i ∈ ((w.setVan v r).setBike b x).touched ↔ i ∈ w.touched ∨ i ∈ stationsOfBike w.store b := by
  have hplace : ∀ p, placeStation (w.setVan v r).store p = placeStation w.store p := placeStation_congr fun _ => rfl
  rw [setBike_touched, hx, hplace, List.append_nil, List.mem_append]
  rfl

theorem workshopDrop_taken {s : State} {q : Request} {v b : Nat} (hv : Crewed s.store q v) (hb : b = param q 8 2)
    (hbike : b < 2048) (hm : b ∈ (vanAt s.store v).manifest) :
    workshopDrop (begun s) q =
      ({ outcome := .ok
         result := encBike (some b) ++ encHandle (bikeAt ((begun s).dropBike v b).store b).fault.ticket ++
           le 1 (vanAt ((begun s).dropBike v b).store v).manifest.length }, (begun s).dropBike v b) := by
  unfold workshopDrop
  rw [crewed_of hv]
  dsimp only
  rw [← hb, if_neg (not_bikes_le hbike), if_pos (show (vanAt (begun s).store v).manifest.contains b = true from
    List.contains_iff_mem.mpr hm)]

theorem workshopPickup_taken {s : State} {q : Request} {v b : Nat} (hv : Crewed s.store q v) (hb : b = param q 8 2)
    (hbike : b < 2048) (hs : (bikeAt s.store b).state = .workshop) (hf : blocked (bikeAt s.store b).fault = false)
    (hp : 0 < freePlaces (vanAt s.store v)) {l : List Nat} (hl : (vanAt s.store v).manifest ++ [b] = l) :
    workshopPickup (begun s) q =
      ({ outcome := .ok, result := manifestRecord l },
        ((begun s).setVan v { vanAt s.store v with manifest := l }).setBike b
          { bikeAt s.store b with state := .inVan, place := some (.van v) }) := by
  have hrefusal : pickupRefusal s.store v b = none := by
    unfold pickupRefusal
    rw [if_neg (not_not_intro hs), if_neg (by rw [hf]; exact Bool.false_ne_true), if_neg (Nat.ne_of_gt hp)]
  unfold workshopPickup
  rw [crewed_of hv]
  dsimp only
  rw [← hb, if_neg (not_bikes_le hbike), show pickupRefusal (begun s).store v b = none from hrefusal, ← hl]
  rfl

/-- Settles O47. -/
theorem workshopTakesAndGives : Obligations.WorkshopTakesAndGives := by
  refine ⟨fun q s v b ht hv hb hbike hm => ?_, fun q s v b ht hv hb hbike hs hf hp => ?_⟩
  · intro rest u
    obtain ⟨x, hx⟩ : ∃ x : Work, ((begun s).setVan v { vanAt s.store v with manifest := rest }).setBike b
      { bikeAt s.store b with state := .workshop, place := none } = x := ⟨_, rfl⟩
    have hdrop : (begun s).dropBike v b = x.moveTicket b .inWorkshop := by
      rw [← hx]
      rfl
    obtain ⟨hstore, -, hnotes, htouched⟩ := moveTicket_eq x b .inWorkshop
    have hu : (x.moveTicket b .inWorkshop).store = u := by rw [hstore, ← hx]; rfl
    have hue : u = { x.store with faults.tickets := u.faults.tickets } := by
      rw [← hu, hstore]
      exact ticketIn_eq _ _ _
    have hbikes := bikeAt_of_put (a := s.store) (b := u) (j := b)
      (r := { bikeAt s.store b with state := .workshop, place := none }) (by rw [hue, ← hx]; rfl)
    have hvans := vanAt_of_put (a := s.store) (b := u) (j := v)
      (r := { vanAt s.store v with manifest := rest }) (by rw [hue, ← hx]; rfl)
    have hrule := workshopDrop_taken hv hb hbike hm
    rw [hdrop, hu, hbikes.1, hvans.1] at hrule
    refine completesAt_of ht rfl hrule (by rw [hnotes, ← hx]; rfl) (fun i => ?_) (fun i => ?_) (fun t hbut => ?_)
    · rw [hu]
      exact stationAt_congr (by rw [hue, ← hx]; rfl)
    · rw [htouched, ← hx, vanThenBike_touched (fun _ => rfl)]
      exact or_iff_right List.not_mem_nil
    · rw [hu] at hbut
      exact hbut.eq
  · intro l u
    refine completesAt_of ht rfl (workshopPickup_taken hv hb hbike hs hf hp rfl) rfl (fun i => rfl) (fun i => ?_)
      (fun t hbut => hbut.eq)
    rw [vanThenBike_touched (fun _ => rfl)]
    exact or_iff_right List.not_mem_nil

end Sys2Proof.Proofs
end

section
/-! PROOF. The clock (O48) and the trend epoch (O50). -/

namespace Sys2Proof.Proofs

open Sys2Proof Sys2Proof.Machine Sys2Proof.Laws

-- One thread: the whole text is compiled in one process, whose threads the check limits.
set_option Elab.async false

/-! ## TIME_SET (R135, R145, R149) -/

theorem dueCount_set {tm : Timer} {now : Nat} (h : tm.clock = some now) :
    dueCount tm = tm.deadlines.countP (fun e => decide (e.due ≤ now)) := by
  unfold dueCount isDue
  rw [h]

/-- An entry added where the list holds none of its kind and owner is the one found there. -/
theorem find_insertEntry {x : Deadline} {due : Nat} {l : List Entry} (h : l.find? (fun e => e.what = x) = none) :
    (insertEntry ⟨x, due⟩ l).find? (fun e => e.what = x) = some ⟨x, due⟩ := by
  induction l with
  | nil => simp [insertEntry]
  | cons e t ih =>
    rw [List.find?_cons] at h
    unfold insertEntry
    split at h
    · cases h
    · rename_i he
      split
      · rw [List.find?_cons, he]
        exact ih h
      · simp

theorem timeSet_kept {w : Work} {q : Request} {epoch : Nat} (h : dueOf w.store .trendEpoch = some epoch) :
    timeSet w q =
      ({ outcome := .ok
         result := encOptClock w.store.timer.clock ++ encClock (param q 0 4) ++
           le 2 (w.store.timer.deadlines.countP (fun e => decide (e.due ≤ param q 0 4))) ++ encClock epoch ++
           encFlag false }, w.setClock (param q 0 4)) := by
  have hdue : dueOf (w.setClock (param q 0 4)).store .trendEpoch = some epoch := h
  have hstart : (w.setClock (param q 0 4)).startEpoch = (w.setClock (param q 0 4), false) := by
    unfold Work.startEpoch
    rw [hdue]
    rfl
  unfold timeSet
  dsimp only
  rw [hstart]
  dsimp only
  rw [hdue, dueCount_set (now := param q 0 4) rfl]
  rfl

theorem timeSet_starts {w : Work} {q : Request} (h : dueOf w.store .trendEpoch = none) {epoch : Nat}
    (he : dueAt (param q 0 4) w.set.trendPeriod = epoch) {l : List Entry}
    (hl : insertEntry ⟨.trendEpoch, epoch⟩ w.store.timer.deadlines = l) :
    timeSet w q =
      ({ outcome := .ok
         result := encOptClock w.store.timer.clock ++ encClock (param q 0 4) ++
           le 2 (l.countP (fun e => decide (e.due ≤ param q 0 4))) ++ encClock epoch ++ encFlag true },
        (w.setClock (param q 0 4)).addEntry .trendEpoch epoch) := by
  have hstart : (w.setClock (param q 0 4)).startEpoch =
      ((w.setClock (param q 0 4)).addEntry .trendEpoch epoch, true) := by
    unfold Work.startEpoch
    rw [show dueOf (w.setClock (param q 0 4)).store .trendEpoch = none from h, ← he]
    rfl
  have hfind : dueOf ((w.setClock (param q 0 4)).addEntry .trendEpoch epoch).store .trendEpoch = some epoch :=
    congrArg (Option.map Entry.due) (find_insertEntry (Option.map_eq_none_iff.mp h))
  unfold timeSet
  dsimp only
  rw [hstart]
  dsimp only
  rw [hfind, dueCount_set (now := param q 0 4) rfl, ← hl]
  rfl

/-! ## The tick and the reads (R142, R143, R144) -/

theorem ticked_eq (c : Option Nat) : ticked c = c.map (fun t => min (t + 1) 4294967295) := by cases c <;> rfl

/-- R142: the two halves of a clock value make it up. -/
theorem clock_halves {now : Nat} (h : now ≤ 4294967295) :
    (BitVec.ofNat 16 now).toNat = now % 65536 ∧ (BitVec.ofNat 16 (now / 65536)).toNat = now / 65536 := by
  refine ⟨BitVec.toNat_ofNat .., ?_⟩
  rw [BitVec.toNat_ofNat]
  omega

theorem exec_clockLowRead {s : State} (h : s.engine.resetAsserted = false) :
    exec .clockLowRead s = .next (readClockLow s) := by
  change execClockLowRead s = _
  unfold execClockLowRead portAccess
  rw [h]
  rfl

/-- Settles O48. -/
theorem clockIsSetTicksAndIsRead : Obligations.ClockIsSetTicksAndIsRead := by
  refine ⟨fun q s ht => ⟨fun epoch he => ?_, fun he => ?_⟩, fun s => ?_, fun s hr => ?_⟩
  · exact completes_work ht rfl (timeSet_kept (w := begun s) he) rfl rfl rfl
  · exact completes_work ht rfl (timeSet_starts (w := begun s) he rfl rfl) rfl rfl rfl
  · rw [← ticked_eq]
    rfl
  · refine ⟨readClockLow s, exec_clockLowRead hr, rfl, fun hc => ?_, fun now hc hnow => ?_⟩
    · unfold readClockLow clockLow clockHigh
      rw [hc]
      exact ⟨rfl, rfl⟩
    · obtain ⟨hlow, hhigh⟩ := clock_halves hnow
      have hl : (readClockLow s).port.dataOut = BitVec.ofNat 16 now := by
        change clockLow s = _
        rw [clockLow, hc]
        rfl
      have hh : (readClockLow s).store.timer.captured = BitVec.ofNat 16 (now / 65536) := by
        change clockHigh s = _
        rw [clockHigh, hc]
        rfl
      refine ⟨by rw [hl, hlow], by rw [hh, hhigh], fun u hu => ?_⟩
      obtain rfl := Host.Outcome.next.inj hu
      have hword : ∀ u : State, controlWord u 8#4 = u.store.timer.captured := fun _ => rfl
      rw [hl, hlow, hword]
      change _ + 65536 * (readClockLow s).store.timer.captured.toNat = now
      rw [hh, hhigh]
      omega

/-! ## TREND_EPOCH (R134) -/

/-- R134: what the epoch leaves of one station. -/
theorem decayStation_eq (w : Work) (i : Nat) :
    (w.decayStation i).set = w.set ∧ (w.decayStation i).touched = w.touched ∧
      ButStations w.store (w.decayStation i).store ∧
      (∀ j, stationAt (w.decayStation i).store j =
        if j = i ∧ (stationAt w.store i).isDefined = true then reworded (decayed (stationAt w.store i))
        else stationAt w.store j) ∧
      (w.decayStation i).notices = w.notices ++
        (if (stationAt w.store i).isDefined = true then
          wordNotice w.store.timer.clock i (decayed (stationAt w.store i)) else none).toList := by
  by_cases h : (stationAt w.store i).isDefined = true
  · have hd : w.decayStation i =
        Work.compareIndicator { w with store := putStation w.store i (decayed (stationAt w.store i)) } i := by
      unfold Work.decayStation
      dsimp only
      rw [if_pos h]
      rfl
    obtain ⟨h1, h2, h3, h4, h5⟩ := compareIndicator_eq
      { w with store := putStation w.store i (decayed (stationAt w.store i)) } i
    rw [hd, if_pos h]
    refine ⟨h1, h2, (butStations_putStation _ _ _).trans h3, fun j => ?_, ?_⟩
    · rw [h4 j, stationAt_putStation_same]
      by_cases hj : j = i
      · rw [if_pos hj, if_pos ⟨hj, h⟩]
      · rw [if_neg hj, if_neg (fun hc => hj hc.1), stationAt_putStation, if_neg hj]
    · rw [h5, stationAt_putStation_same]
      rfl
  · have hd : w.decayStation i = w := by
      unfold Work.decayStation
      dsimp only
      rw [if_neg h]
    rw [hd, if_neg h]
    exact ⟨rfl, rfl, .refl _, fun j => by rw [if_neg (fun hc => h hc.2)], by simp⟩

theorem decayFold_eq (l : List Nat) (hl : l.Nodup) (w : Work) :
    let w' := l.foldl Work.decayStation w
    w'.set = w.set ∧ w'.touched = w.touched ∧ ButStations w.store w'.store ∧
      (∀ j, stationAt w'.store j =
        if j ∈ l ∧ (stationAt w.store j).isDefined = true then reworded (decayed (stationAt w.store j))
        else stationAt w.store j) ∧
      w'.notices = w.notices ++ l.filterMap (fun i =>
        if (stationAt w.store i).isDefined = true then
          wordNotice w.store.timer.clock i (decayed (stationAt w.store i))
        else none) := by
  induction l generalizing w with
  | nil => exact ⟨rfl, rfl, .refl _, fun j => by simp, by simp⟩
  | cons i l ih =>
    obtain ⟨a1, a2, a3, a4, a5⟩ := decayStation_eq w i
    obtain ⟨hi, hl⟩ := List.nodup_cons.mp hl
    obtain ⟨b1, b2, b3, b4, b5⟩ := ih hl (w.decayStation i)
    have hother : ∀ j, j ≠ i → stationAt (w.decayStation i).store j = stationAt w.store j :=
      fun j hj => (a4 j).trans (if_neg (fun hc => hj hc.1))
    refine ⟨b1.trans a1, b2.trans a2, a3.trans b3, fun j => ?_, ?_⟩
    · rw [List.foldl_cons, b4 j]
      by_cases hj : j = i
      · subst hj
        rw [if_neg (fun hc => hi hc.1), a4 j]
        simp
      · rw [hother j hj]
        simp [hj]
    · have hrest : ∀ j ∈ l,
          (if (stationAt (w.decayStation i).store j).isDefined = true then
            wordNotice (w.decayStation i).store.timer.clock j (decayed (stationAt (w.decayStation i).store j))
          else none) =
          (if (stationAt w.store j).isDefined = true then
            wordNotice w.store.timer.clock j (decayed (stationAt w.store j))
          else none) := fun j hj => by rw [hother j (fun hc => hi (hc ▸ hj)), a3.timer]
      rw [List.foldl_cons, b5, a5, List.append_assoc, List.filterMap_cons, filterMap_agrees hrest]
      generalize (if (stationAt w.store i).isDefined = true then
        wordNotice w.store.timer.clock i (decayed (stationAt w.store i)) else none) = o
      cases o <;> simp

theorem exec_trendEpoch {hub : HubInput} {s : State} (hg : grantedHead s = some .trendEpoch) :
    exec (.trendEpoch hub) s = .next (grantExpiry hub Work.decay s) := by
  change execTrendEpoch hub s = _
  unfold execTrendEpoch
  rw [hg]

/-- Settles O50. -/
theorem trendEpochDecays : Obligations.TrendEpochDecays := by
  intro hub s now ⟨hg, hclean⟩ hc
  obtain ⟨h1, h2, h3, h4, h5⟩ := decayFold_eq (List.range 32) List.nodup_range ⟨s.settings, headTaken s.store, [], []⟩
  obtain ⟨x, hx⟩ : ∃ x, (List.range 32).foldl Work.decayStation ⟨s.settings, headTaken s.store, [], []⟩ = x := ⟨_, rfl⟩
  rw [hx] at h1 h2 h3 h4 h5
  have hdecay : Work.decay ⟨s.settings, headTaken s.store, [], []⟩ =
      x.addEntry .trendEpoch (heldAt (now + s.settings.trendPeriod)) := by
    unfold Work.decay
    rw [show (List.range Config.stations).foldl Work.decayStation _ = x from hx]
    dsimp only
    rw [Work.now, show Work.store _ = headTaken s.store from rfl,
      show (headTaken s.store).timer.clock = some now from hc]
    rfl
  have h := lapses_of (P := fun t =>
      (∀ i, stationAt t i =
        if i < 32 ∧ (stationAt s.store i).isDefined = true then reworded (decayed (stationAt s.store i))
        else stationAt s.store i) ∧
      t = { s.store with
        fleet.stations := t.fleet.stations
        timer.deadlines := insertEntry ⟨.trendEpoch, heldAt (now + s.settings.trendPeriod)⟩
          s.store.timer.deadlines.tail }) hclean (exec_trendEpoch hg) hdecay h2 ⟨fun i => ?_, ?_⟩
  · have hnotes : (x.addEntry .trendEpoch (heldAt (now + s.settings.trendPeriod))).notices = _ :=
      h5.trans (List.nil_append _)
    rw [hnotes, show Work.store _ = headTaken s.store from rfl,
      show (headTaken s.store).timer.clock = some now from hc] at h
    exact h
  · refine (h4 i).trans (ite_congr (propext ?_) (fun _ => rfl) (fun _ => rfl))
    rw [List.mem_range]
    rfl
  · have he := h3.eq
    rw [addEntry_store]
    generalize x.store = y at he
    rw [he]
    rfl

end Sys2Proof.Proofs
end

section
/-! PROOF. The choice of the arbiter (O54) and the reset pin (O57). -/

namespace Sys2Proof.Proofs

open Sys2Proof Sys2Proof.Machine Sys2Proof.Laws

-- One thread: the whole text is compiled in one process, whose threads the check limits.
set_option Elab.async false

/-! ## The arbiter (R167 to R169) -/

theorem find?_least {l : List Requester} (hl : l.Pairwise (fun a b => a.priority ≤ b.priority)) {p : Requester → Bool}
    {g : Requester} (h : l.find? p = some g) : ∀ r ∈ l, p r = true → g.priority ≤ r.priority := by
  obtain ⟨-, before, after, rfl, hbefore⟩ := List.find?_eq_some_iff_append.mp h
  obtain ⟨-, hafter, -⟩ := List.pairwise_append.mp hl
  intro r hr hp
  rcases List.mem_append.mp hr with hr | hr
  · have hn := hbefore r hr
    rw [hp] at hn
    cases hn
  · rcases List.mem_cons.mp hr with rfl | hr
    · exact Nat.le_refl _
    · exact (List.pairwise_cons.mp hafter).1 r hr

theorem requesters_ordered : requesters.Pairwise (fun a b => a.priority ≤ b.priority) := by decide

theorem arbiterChoice_closed {s : State} (h : ¬ (s.engine.state = .running ∧ s.engine.stopPending = false)) :
    arbiterChoice s = none := if_neg h

/-- R169: some requester has passed over 8 times: the first such. -/
theorem arbiterChoice_starved {s : State} (h : s.engine.state = .running ∧ s.engine.stopPending = false) {g : Requester}
    (hf : requesters.find? (fun r => requesting s r && passOverOf s r == Config.passOverMax) = some g) :
    arbiterChoice s = some g := by
  unfold arbiterChoice
  rw [if_pos h, hf]

theorem arbiterChoice_first {s : State} (h : s.engine.state = .running ∧ s.engine.stopPending = false)
    (hf : requesters.find? (fun r => requesting s r && passOverOf s r == Config.passOverMax) = none) :
    arbiterChoice s = requesters.find? (requesting s) := by
  unfold arbiterChoice
  rw [if_pos h, hf]

theorem arbiterChoice_none (s : State) :
    arbiterChoice s = none ↔
      ¬ (s.engine.state = .running ∧ s.engine.stopPending = false) ∨ ∀ r ∈ requesters, requesting s r = false := by
  by_cases h : s.engine.state = .running ∧ s.engine.stopPending = false
  · cases hf : requesters.find? (fun r => requesting s r && passOverOf s r == Config.passOverMax) with
    | some g =>
      obtain ⟨hg, hmem⟩ := find?_requester hf
      rw [arbiterChoice_starved h hf]
      constructor
      · exact fun hc => nomatch hc
      · rintro (hn | hn)
        · exact absurd h hn
        · exact absurd (hn g hmem) (by rw [hg]; exact nofun)
    | none =>
      rw [arbiterChoice_first h hf, List.find?_eq_none]
      constructor
      · exact fun hn => .inr fun r hr => Bool.not_eq_true _ ▸ hn r hr
      · rintro (hn | hn)
        · exact absurd h hn
        · exact fun r hr => by rw [hn r hr]; exact nofun
  · exact ⟨fun _ => .inl h, fun _ => arbiterChoice_closed h⟩

/-- Settles O54. -/
theorem arbiterChoosesByPriority : Obligations.ArbiterChoosesByPriority := by
  intro s
  refine ⟨arbiterChoice_none s, fun g hg => ?_⟩
  obtain ⟨hrun, hstop, hreq, hmem⟩ := arbiterChoice_some hg
  refine ⟨hmem, hreq, ?_⟩
  have h := And.intro hrun hstop
  cases hf : requesters.find? (fun r => requesting s r && passOverOf s r == Config.passOverMax) with
  | some g' =>
    rw [arbiterChoice_starved h hf] at hg
    cases hg
    have hcount : passOverOf s g = 8 := by
      have hp := List.find?_some hf
      rw [hreq, Bool.true_and] at hp
      exact beq_iff_eq.mp hp
    refine ⟨fun _ r hr hq hc => find?_least requesters_ordered hf r hr ?_, fun hc => absurd hcount hc⟩
    rw [hq, hc]
    rfl
  | none =>
    have hless : ∀ r ∈ requesters, requesting s r = true → passOverOf s r ≠ 8 := by
      intro r hr hq hc
      have hp := List.find?_eq_none.mp hf r hr
      rw [hq, hc] at hp
      exact hp rfl
    rw [arbiterChoice_first h hf] at hg
    exact ⟨fun hc => absurd hc (hless g hmem hreq),
      fun _ r hr hq => ⟨hless r hr hq, find?_least requesters_ordered hg r hr hq⟩⟩

/-! ## The end of a command in which no reset is taken -/

theorem NoReset.tail {a : BusAnswer} {l : List BusAnswer} (h : NoReset (a :: l)) : NoReset l :=
  fun d hd => h d (List.mem_cons_of_mem _ hd)

theorem resetTaken_noReset {l : List BusAnswer} (h : NoReset l) : resetTaken l = false := by
  unfold resetTaken
  split
  · exact absurd (List.mem_cons_self ..) (h _)
  · rfl

theorem noReset_clean {l : List BusAnswer} (h : AllOk l) : NoReset l := fun _ hd => nomatch h _ hd

theorem endCommand_closes {s : State} (h : NoReset s.hub.answers) : Ended s (endCommand s) := by
  obtain ⟨p, he, hc⟩ := settleCounts_eq { s with rings.inHand := none, hub.answers := [] }
  unfold endCommand
  rw [resetTaken_noReset h, if_neg Bool.false_ne_true, he]
  refine ⟨rfl, rfl, rfl, rfl, rfl, rfl, rfl, rfl, rfl, rfl, rfl, rfl, fun _ => rfl, fun r hr => ?_⟩
  rw [requesting_withCounts]
  exact hc r hr

/-- What the end of a command leaves beside the engine and the control port, where its work changed hub memory, the
records, the engine, the notice ring and the port's other fields alone. -/
theorem besidePort_ended {mem : Table Byte} {s u t : State} (he : Ended u t) (hmem : u.hub.mem = mem)
    (hd : u.port.dataOut = s.port.dataOut) (hb : u.bulk = s.bulk) (hr : u.rings.rings = s.rings.rings)
    (hv : u.rings.reserved = s.rings.reserved) (hq : u.pending = s.pending) (hp : u.passOver = s.passOver) :
    BesidePort mem s t where
  mem := he.mem.trans hmem
  dataOut := (congrArg Port.dataOut he.port).trans hd
  bulk := he.bulk.trans hb
  rings k := (he.rings k).trans (ringAt_congr hr k)
  reserved := he.reserved.trans hv
  inHand := he.inHand
  answers := he.answers
  pending := he.pending.trans hq
  counts r hmem := by
    rw [he.counts r hmem]
    unfold passOverOf
    rw [hp]

/-! ## The reset pin (R179) -/

/-- What a reset leaves as it stands is the same in two states: all else of the part is given by the reset, the records
and hub memory apart. -/
structure StandsAlike (s u : State) : Prop where
  settings : u.settings = s.settings
  notice : u.rings.notice = s.rings.notice
  pending : u.pending = s.pending
  dataOut : u.port.dataOut = s.port.dataOut
  request : ∀ n, (ringAt u n).request = (ringAt s n).request
  response : ∀ n, (ringAt u n).response = (ringAt s n).response

theorem StandsAlike.refl (s : State) : StandsAlike s s := ⟨rfl, rfl, rfl, rfl, fun _ => rfl, fun _ => rfl⟩

theorem StandsAlike.trans {s u v : State} (h : StandsAlike s u) (k : StandsAlike u v) : StandsAlike s v :=
  ⟨k.settings.trans h.settings, k.notice.trans h.notice, k.pending.trans h.pending, k.dataOut.trans h.dataOut,
    fun n => (k.request n).trans (h.request n), fun n => (k.response n).trans (h.response n)⟩

theorem requesting_ring_off {s : State} {n : Nat} (h : (ringAt s n).state = .off) : requesting s (.ring n) = false := by
  change (decide ((ringAt s n).state = .ready) && _) = false
  rw [h]
  rfl

theorem resetPart_idle (b : Bool) (u : State) {r : Requester} (hr : r ∈ requesters) :
    passOverOf (resetPart b u) r = 0 ∧ requesting (resetPart b u) r = false := by
  refine ⟨rfl, ?_⟩
  have hring : ∀ n, n < requestRings → requesting (resetPart b u) (.ring n) = false := by
    intro n hn
    refine requesting_ring_off ?_
    rw [ringAt_resetPart, if_pos hn]
    rfl
  simp only [requesters, List.mem_cons, List.not_mem_nil, or_false] at hr
  rcases hr with rfl | rfl | rfl | rfl | rfl | rfl
  · exact hring 0 (by decide)
  · rfl
  · exact hring 1 (by decide)
  · exact hring 2 (by decide)
  · exact hring 3 (by decide)
  · rfl

theorem resetPart_pinReset (b : Bool) {s u : State} (h : StandsAlike s u) :
    PinReset b u.hub.mem s (resetPart b u) where
  engine := rfl
  clock := rfl
  captured := rfl
  rings n hn := by
    rw [ringAt_resetPart, if_pos hn, resetRing, h.request, h.response]
  noticeIndex := rfl
  reserved := rfl
  inHand := rfl
  bulk := rfl
  counts _ hr := resetPart_idle b u hr
  port := congrArg (fun d => (⟨0#4, 0#32, 0#10, 0#10, d⟩ : Port)) h.dataOut
  interrupt := by
    change ((0#10 &&& 0#10) != 0#10) = false
    decide
  mem := rfl
  answers := rfl
  settings := h.settings
  notice := h.notice
  pending := h.pending

theorem portAccess_asserted {s : State} (h : s.engine.resetAsserted = true) (f : State → State) : portAccess f s = s :=
  if_pos h

/-- R172, R179: while the reset pin is asserted no access to the control port is answered. -/
theorem exec_asserted {s : State} (h : s.engine.resetAsserted = true) (v : BitVec 16) :
    ∀ c ∈ [Instr.initFormat, .initKeep, .indexPortWrite v, .clockLowRead, .eventClear v, .eventEnableWrite v],
      exec c s = .next s := by
  intro c hc
  simp only [List.mem_cons, List.not_mem_nil, or_false] at hc
  rcases hc with rfl | rfl | rfl | rfl | rfl | rfl <;> exact congrArg Host.Outcome.next (portAccess_asserted h _)

theorem exec_controlWordWrite (v : BitVec 16) (hub : HubInput) (s : State) :
    exec (.controlWordWrite v hub) s =
      .next (endCommand (portAccess (writeControlWord · v) (beginCommand s hub))) := rfl

/-- Settles O57. -/
theorem resetPinClears : Obligations.ResetPinClears := by
  refine ⟨fun s => ⟨_, rfl, resetPart_pinReset false (StandsAlike.refl s), rfl⟩,
    fun s v h => ⟨exec_asserted h v, fun hub hn => ?_⟩⟩
  have hp : portAccess (writeControlWord · v) (beginCommand s hub) = beginCommand s hub :=
    portAccess_asserted (s := beginCommand s hub) h _
  have he : Ended (beginCommand s hub) (endCommand (beginCommand s hub)) := endCommand_closes hn
  refine ⟨endCommand (beginCommand s hub), ?_, besidePort_ended he rfl rfl rfl rfl rfl rfl rfl, he.engine, he.port,
    he.store, he.settings, he.notice, he.noticeIndex⟩
  rw [exec_controlWordWrite, hp]

end Sys2Proof.Proofs
end

section
/-! PROOF. The ring commands (O53). -/

namespace Sys2Proof.Proofs

open Sys2Proof Sys2Proof.Machine Sys2Proof.Laws

-- One thread: the whole text is compiled in one process, whose threads the check limits.
set_option Elab.async false

/-! ## Ring commands (R158, R159) -/

/-- The part with its rings and its side of the bus replaced. -/
def withRings (s : State) (rs : Table Ring) (mem : Table Byte) (l : List BusAnswer) : State :=
  { withHub s mem l with rings.rings := rs }

/-- What a command leaves beside ring `n`, where its work set that ring alone. -/
theorem besideRing_ended {mem : Table Byte} {s t : State} {n : Nat} {rs : Table Ring} {l : List BusAnswer}
    (ht : Ended (withRings s rs mem l) t) (ho : ∀ k, k ≠ n → readAt formattedRing rs k = ringAt s k) :
    BesideRing mem n s t :=
  ⟨fun k hk => (ht.rings k).trans (ho k hk), ht.mem, ht.store, ht.engine, ht.port, ht.settings, ht.bulk, ht.reserved,
    ht.notice, ht.noticeIndex, fun _ => ht.inHand, fun _ => ht.answers, ht.pending, ht.counts⟩

/-- A ring command that leaves its ring as it stands. -/
theorem besideRing_same {s : State} {hub : HubInput} (h : NoReset hub.answers) (n : Nat) :
    BesideRing (hubStores s.hub.mem hub.writes) n s (endCommand (beginCommand s hub)) ∧
      ringAt (endCommand (beginCommand s hub)) n = ringAt s n := by
  have ht : Ended (beginCommand s hub) _ := endCommand_closes h
  exact ⟨besideRing_ended (rs := s.rings.rings) ht fun _ _ => rfl, ht.rings n⟩

/-- R156: a command that looks at ring `n`, whose record stood as `r`, on a clean bus. -/
theorem besideRing_look {s : State} {hub : HubInput} (h : CleanBus hub) {n : Nat} {rs : Table Ring} {r : Ring}
    (hr : readAt formattedRing rs n = r) (ho : ∀ k, k ≠ n → readAt formattedRing rs k = ringAt s k) {t : State}
    (ht : t = endCommand (look (withRings s rs (hubStores s.hub.mem hub.writes) hub.answers) n)) :
    BesideRing (hubStores s.hub.mem hub.writes) n s t ∧ ringAt t n = { r with state := seenState t n } := by
  obtain ⟨l, hl, he⟩ := look_clean (s := withRings s rs (hubStores s.hub.mem hub.writes) hub.answers) h n
  generalize hx : seenState (withRings s rs (hubStores s.hub.mem hub.writes) hub.answers) n = x at he
  have hend : Ended (withRings s (writeAt formattedRing rs n { r with state := x }) (hubStores s.hub.mem hub.writes) l) t := by
    have := endCommand_ended (s := look (withRings s rs (hubStores s.hub.mem hub.writes) hub.answers) n)
      (by rw [he]; exact hl)
    rw [← ht, he] at this
    rw [← hr]
    exact this
  have hring : ringAt t n = { r with state := x } := (hend.rings n).trans (readAt_writeAt_same _ _ _ _)
  refine ⟨besideRing_ended hend fun k hk => (readAt_writeAt_other _ _ _ hk).trans (ho k hk), ?_⟩
  rw [hring, ← hx]
  have hseen : seenState t n = seenState (withRings s rs (hubStores s.hub.mem hub.writes) hub.answers) n := by
    refine seenState_congr hend.mem hend.reserved ?_ ?_ ?_ ?_ <;>
      (rw [hring, ← hr]; rfl)
  rw [hseen]

/-- START, KICK and RESUME: each looks where its premise holds, the ring having been made `r`. -/
theorem looks_or_stands {s : State} {hub : HubInput} (h : CleanBus hub) {n : Nat} {c : Prop} [Decidable c] {r : Ring}
    {u : State} (hu : u = beginCommand s hub ∨ u = setRing (beginCommand s hub) n r)
    (hr : ringAt u n = r) {t : State}
    (ht : t = endCommand (if c then look u n else beginCommand s hub)) :
    BesideRing (hubStores s.hub.mem hub.writes) n s t ∧
      ringAt t n = if c then { r with state := seenState t n } else ringAt s n := by
  by_cases hc : c
  · rw [if_pos hc] at ht
    rw [if_pos hc]
    rcases hu with rfl | rfl
    · exact besideRing_look (s := s) (rs := s.rings.rings) h hr (fun _ _ => rfl) ht
    · refine besideRing_look (s := s) (rs := writeAt formattedRing s.rings.rings n r) h hr (fun k hk => ?_) ht
      exact readAt_writeAt_other _ _ _ hk
  · rw [if_neg hc] at ht
    rw [if_neg hc, ht]
    exact besideRing_same (noReset_clean h) n

theorem exec_ringStart (n : Nat) (hub : HubInput) (s : State) :
    exec (.ringStart n hub) s = .next (endCommand (startRing (beginCommand s hub) n)) := rfl

theorem exec_kick (n : Nat) (hub : HubInput) (s : State) :
    exec (.kick n hub) s = .next (endCommand (kickRing (beginCommand s hub) n)) := rfl

theorem exec_resume (n : Nat) (hub : HubInput) (s : State) :
    exec (.resume n hub) s = .next (endCommand (resumeRing (beginCommand s hub) n)) := rfl

theorem exec_ringStop (n : Nat) (s : State) : exec (.ringStop n) s = .next (settleCounts (stopRing s n)) := rfl

/-- R159: what STOP makes of its ring. -/
def stoppedRing (s : State) (n : Nat) : Ring :=
  if n < 4 ∧ (ringAt s n).state ≠ .off then
    if (ringAt s n).state = .ready ∧ s.rings.inHand = some n then { ringAt s n with stopPending := true }
    else { ringAt s n with state := .off, stopPending := false }
  else ringAt s n

theorem stopRing_eq (s : State) (n : Nat) :
    stopRing s n = s ∧ stoppedRing s n = ringAt s n ∨ stopRing s n = setRing s n (stoppedRing s n) := by
  unfold stopRing stoppedRing requestRings
  by_cases hn : n < 4
  · rw [if_pos hn]
    cases hx : (ringAt s n).state with
    | off => exact .inl ⟨rfl, if_neg fun h => h.2 rfl⟩
    | ready =>
      refine .inr ?_
      by_cases hi : s.rings.inHand = some n
      · simp [hn, hi]
      · simp [hn, hi, turnOff]
    | idle => exact .inr (by simp [hn, turnOff])
    | blocked => exact .inr (by simp [hn, turnOff])
    | failed => exact .inr (by simp [hn, turnOff])
  · exact .inl ⟨if_neg hn, if_neg fun h => hn h.1⟩

theorem ringStop_besideRing (s : State) (n : Nat) :
    BesideRing s.hub.mem n s (settleCounts (stopRing s n)) ∧
      ringAt (settleCounts (stopRing s n)) n = stoppedRing s n := by
  obtain ⟨u, hu, hr, ho⟩ : ∃ rs, stopRing s n = { s with rings.rings := rs } ∧
      readAt formattedRing rs n = stoppedRing s n ∧ ∀ k, k ≠ n → readAt formattedRing rs k = ringAt s k := by
    rcases stopRing_eq s n with ⟨hs, hr⟩ | hs
    · exact ⟨s.rings.rings, hs, hr.symm, fun _ _ => rfl⟩
    · exact ⟨_, hs, readAt_writeAt_same _ _ _ _, fun _ hk => readAt_writeAt_other _ _ _ hk⟩
  obtain ⟨p, hp, hc⟩ := settleCounts_eq (stopRing s n)
  rw [hp, hu] at *
  refine ⟨⟨ho, rfl, rfl, rfl, rfl, rfl, rfl, rfl, rfl, rfl, id, id, rfl, fun r hr => ?_⟩, hr⟩
  rw [requesting_withCounts]
  exact hc r hr

/-- Settles O53. -/
theorem ringCommandsAct : Obligations.RingCommandsAct := by
  refine ⟨fun n hub s h => ⟨⟨_, exec_ringStart n hub s, ?_⟩, ⟨_, exec_kick n hub s, ?_⟩, ⟨_, exec_resume n hub s, ?_⟩⟩,
    fun n s => ⟨_, exec_ringStop n s, ringStop_besideRing s n⟩⟩
  · exact looks_or_stands h (.inr rfl) (ringAt_setRing_same _ _ _) rfl
  · exact looks_or_stands h (.inl rfl) rfl rfl
  · exact looks_or_stands h (.inl rfl) rfl rfl

end Sys2Proof.Proofs
end

section
/-! PROOF. The end of an INIT (O58) and of a STOP (O59). -/

namespace Sys2Proof.Proofs

open Sys2Proof Sys2Proof.Machine Sys2Proof.Laws

-- One thread: the whole text is compiled in one process, whose threads the check limits.
set_option Elab.async false

/-! ## A bus error (R182, R183) -/

section
variable {s : State} {k : Nat} {rest : List BusAnswer} (h : s.hub.answers = .error k :: rest)
include h

theorem busAnswer_error : busAnswer s = (.error k, withAnswers s rest) := by
  unfold busAnswer
  rw [h]
  rfl

theorem busRead_error (a n : Nat) : busRead s a n = (none, withAnswers s rest) := by
  unfold busRead
  rw [busAnswer_error h]

theorem busWrite_error (a : Nat) (l : List Byte) : busWrite s a l false = (false, withAnswers s rest) := by
  unfold busWrite
  rw [busAnswer_error h]
  rfl

end

/-! ## INIT (R174 to R177) -/

theorem exec_initCompletion {hub : HubInput} {s : State} {kind : InitKind} (h : s.engine.state = .initializing kind) :
    exec (.initCompletion hub) s = .next (endCommand (readSetup (beginCommand s hub) kind)) := by
  change execInitCompletion hub s = _
  unfold execInitCompletion
  rw [h]

theorem readSetup_clean {s : State} (h : AllOk s.hub.answers) (kind : InitKind) :
    readSetup s kind =
      completeInit (withAnswers s s.hub.answers.tail) kind (memRead s.hub.mem s.port.setupAddress.toNat 128) := by
  unfold readSetup
  rw [busRead_clean h]
  rfl

theorem readSetup_error {s : State} {k : Nat} {rest : List BusAnswer} (h : s.hub.answers = .error k :: rest)
    (kind : InitKind) :
    readSetup s kind =
      raiseEvent { withAnswers s rest with engine := { s.engine with state := .stopped, lastInit := .busError } }
        initFailed := by
  unfold readSetup
  rw [busRead_error h]
  rfl

theorem completeInit_formatted (s : State) (kind : InitKind) (block : Nat) :
    (completeInit s kind block).engine =
      { s.engine with
        state := .running, formatted := decide (kind = .format) || s.engine.formatted, lastInit := .ok } := by
  cases kind <;> rfl

theorem formatStore_formatted (st : Store) : Formatted st (formatStore st) :=
  ⟨fun _ => rfl, fun _ => rfl, fun _ => rfl, fun _ => rfl, fun _ => rfl, rfl, fun _ => rfl, fun _ => rfl, rfl, rfl,
    fun _ => rfl, rfl, rfl, rfl, rfl⟩

theorem initCompletion_clean {hub : HubInput} {s : State} {kind : InitKind} (h : CleanBus hub)
    (hk : s.engine.state = .initializing kind) :
    let mem := hubStores s.hub.mem hub.writes
    let set := settingsOf (memRead mem s.port.setupAddress.toNat 128)
    ∃ t, exec (.initCompletion hub) s = .next t ∧ BesidePort mem s t ∧
      t.settings = set ∧ t.rings.notice = set.noticeRing ∧ t.rings.noticeIndex = 0 ∧
      t.engine = { s.engine with
        state := .running, formatted := decide (kind = .format) || s.engine.formatted, lastInit := .ok } ∧
      t.port = { s.port with events := s.port.events ||| initDone } ∧
      (kind = .keep → t.store = s.store) ∧ (kind = .format → Formatted s.store t.store) := by
  intro mem set
  obtain ⟨u, hu⟩ : ∃ u, completeInit (withAnswers (beginCommand s hub) hub.answers.tail) kind
    (memRead mem s.port.setupAddress.toNat 128) = u := ⟨_, rfl⟩
  have hr := (readSetup_clean (s := beginCommand s hub) h kind).trans hu
  have he : Ended u (endCommand u) := endCommand_ended (by rw [← hu]; exact AllOk.tail h)
  refine ⟨endCommand u, by rw [exec_initCompletion hk, hr], ?_⟩
  subst hu
  refine ⟨besidePort_ended he rfl rfl rfl rfl rfl rfl rfl, he.settings, he.notice, he.noticeIndex,
    he.engine.trans (completeInit_formatted _ _ _), he.port, fun hkeep => ?_, fun hformat => ?_⟩
  · subst hkeep
    exact he.store
  · subst hformat
    rw [he.store]
    exact formatStore_formatted s.store

theorem initCompletion_fails {hub : HubInput} {s : State} {kind : InitKind} (hk : s.engine.state = .initializing kind)
    {k : Nat} {rest : List BusAnswer} (hn : NoReset rest) (ha : hub.answers = .error k :: rest) :
    ∃ t, exec (.initCompletion hub) s = .next t ∧
      BesidePort (hubStores s.hub.mem hub.writes) s t ∧ t.settings = s.settings ∧ t.rings.notice = s.rings.notice ∧
      t.rings.noticeIndex = s.rings.noticeIndex ∧
      t.engine = { s.engine with state := .stopped, lastInit := .busError } ∧
      t.port = { s.port with events := s.port.events ||| initFailed } ∧ t.store = s.store := by
  have hr := readSetup_error (s := beginCommand s hub) ha kind
  have he : Ended (readSetup (beginCommand s hub) kind) _ := endCommand_closes (by rw [hr]; exact hn)
  refine ⟨_, exec_initCompletion hk, ?_⟩
  rw [hr] at he ⊢
  exact ⟨besidePort_ended he rfl rfl rfl rfl rfl rfl rfl, he.settings, he.notice, he.noticeIndex, he.engine, he.port,
    he.store⟩

/-! ## The setup block (R175, R176) -/

theorem overduePoint_standard {block : Nat} (h : flagBit block 65 3 = false) :
    (settingsOf block).overduePoint = 86400 := by
  change within 3600 172800 (if flagBit block 65 3 then _ else 86400) = _
  rw [h]
  rfl

theorem overduePoint_clamped {block : Nat} (h : flagBit block 65 3 = true) (hv : field block 76 4 = 200000) :
    (settingsOf block).overduePoint = 172800 := by
  change within 3600 172800 (if flagBit block 65 3 then field block 76 4 else _) = _
  rw [h, hv]
  rfl

/-- R176: the lost point keeps an hour from the overdue point. -/
theorem lostPoint_eq (block : Nat) :
    (settingsOf block).lostPoint =
      within ((settingsOf block).overduePoint + 3600) 604800
        (if flagBit block 65 4 then field block 80 4 else 259200) := rfl

theorem lostPoint_standard {block : Nat} (h : flagBit block 65 4 = false) : (settingsOf block).lostPoint = 259200 := by
  have ho : (settingsOf block).overduePoint ≤ 172800 := (blockOverdue_mem block).2
  rw [lostPoint_eq, h, if_neg Bool.false_ne_true]
  unfold within
  omega

theorem lostPoint_clamped {block : Nat} (h : flagBit block 65 4 = true) (hv : field block 80 4 = 100000)
    (ho : (settingsOf block).overduePoint = 172800) : (settingsOf block).lostPoint = 176400 := by
  rw [lostPoint_eq, h, hv, ho]
  rfl

/-- Settles O58. -/
theorem initCompletes : Obligations.InitCompletes := by
  refine ⟨fun hub s kind hk => ?_, fun block => ?_, rfl⟩
  · exact ⟨fun h => initCompletion_clean h hk, fun k rest hn ha => initCompletion_fails hk hn ha⟩
  · exact ⟨settingsOf_inRange block, overduePoint_standard, overduePoint_clamped, lostPoint_standard, lostPoint_clamped⟩

/-! ## STOP (R178) -/

theorem exec_stopCompletion {hub : HubInput} {s : State}
    (h : s.engine.state = .running ∧ s.engine.stopPending = true) :
    exec (.stopCompletion hub) s = .next (endCommand (completeStop (beginCommand s hub))) :=
  if_pos h

/-- R178: what the end of a STOP leaves, hub memory, the reserved slot and the event flags apart. -/
def StopLeaves (s t : State) : Prop :=
  t.engine = { s.engine with state := .stopped, stopPending := false } ∧ RingsOff s t ∧
    t.store = s.store ∧ t.settings = s.settings ∧ t.bulk = none ∧
    t.rings.notice = s.rings.notice ∧ t.rings.noticeIndex = s.rings.noticeIndex ∧
    (∀ r ∈ requesters, passOverOf t r = 0) ∧ t.pending = s.pending ∧
    t.port = { s.port with events := t.port.events }

/-- R178 step 3: the part once no load is in flight. -/
def loadOver (s : State) (rs : Table Ring) (v : Option ReservedSlot) (e : BitVec 10) (mem : Table Byte)
    (l : List BusAnswer) : State :=
  { withRings s rs mem l with bulk := none, rings.reserved := v, port.events := e }

theorem halt_leaves {s t : State} {rs : Table Ring} {v : Option ReservedSlot} {e : BitVec 10} {mem : Table Byte}
    {l : List BusAnswer} (ht : Ended (haltEngine (loadOver s rs v e mem l)) t)
    (hr : ∀ k, ∃ x, readAt formattedRing rs k =
      if k = 3 then { ringAt s k with state := x } else ringAt s k) :
    StopLeaves s t ∧ t.rings.reserved = v ∧ t.hub.mem = mem ∧ t.port.events = e ||| stopDone := by
  refine ⟨⟨ht.engine.trans (haltEngine_engine _), fun k => ?_, ht.store.trans (haltEngine_store _),
    ht.settings.trans (haltEngine_settings _), ht.bulk.trans (haltEngine_bulk _), ht.notice.trans (haltEngine_notice _),
    ht.noticeIndex.trans (haltEngine_noticeIndex _), fun r hr => ?_, ht.pending.trans (haltEngine_pending _), ?_⟩,
    ht.reserved.trans (haltEngine_reserved _), ht.mem.trans (congrArg Hub.mem (haltEngine_hub _)), ?_⟩
  · rw [ht.rings, ringAt_haltEngine]
    obtain ⟨x, hx⟩ := hr k
    have hring : ringAt (loadOver s rs v e mem l) k = _ := hx
    rw [hring]
    by_cases hk : k = 3
    · subst hk
      rfl
    · rw [if_neg hk]
  · rw [ht.counts r hr, passOverOf_haltEngine, ite_self]
  · rw [ht.port, haltEngine_port]
    rfl
  · rw [ht.port, haltEngine_port]
    rfl

theorem stopCompletion_leaves {hub : HubInput} {s : State} (h : s.engine.state = .running ∧ s.engine.stopPending = true)
    {rs : Table Ring} {v : Option ReservedSlot} {e : BitVec 10} {mem : Table Byte} {l : List BusAnswer}
    (hs : stopBulk (beginCommand s hub) = loadOver s rs v e mem l) (hn : NoReset l)
    (hr : ∀ k, ∃ x, readAt formattedRing rs k = if k = 3 then { ringAt s k with state := x } else ringAt s k) :
    ∃ t, exec (.stopCompletion hub) s = .next t ∧ StopLeaves s t ∧ t.rings.reserved = v ∧ t.hub.mem = mem ∧
      t.port.events = e ||| stopDone := by
  have he : Ended (completeStop (beginCommand s hub)) _ := endCommand_closes (by
    unfold completeStop
    rw [hs]
    exact hn)
  refine ⟨_, exec_stopCompletion h, halt_leaves (l := l) ?_ hr⟩
  have hc : completeStop (beginCommand s hub) = haltEngine (loadOver s rs v e mem l) := congrArg haltEngine hs
  rw [← hc]
  exact he

theorem ring_same (s : State) (k : Nat) :
    ∃ x, readAt formattedRing s.rings.rings k = if k = 3 then { ringAt s k with state := x } else ringAt s k :=
  ⟨(ringAt s k).state, by split <;> rfl⟩

theorem ring_set (s : State) (x : RingState) (k : Nat) :
    ∃ y, readAt formattedRing (writeAt formattedRing s.rings.rings 3 { ringAt s 3 with state := x }) k =
      if k = 3 then { ringAt s k with state := y } else ringAt s k := by
  refine ⟨x, ?_⟩
  rw [readAt_writeAt]
  by_cases hk : k = 3
  · subst hk
    rfl
  · rw [if_neg hk, if_neg hk]
    rfl

theorem stopBulk_idle {s : State} (hb : s.bulk = none) (hub : HubInput) :
    stopBulk (beginCommand s hub) =
      loadOver s s.rings.rings s.rings.reserved s.port.events (hubStores s.hub.mem hub.writes) hub.answers := by
  have hs : stopBulk (beginCommand s hub) = beginCommand s hub := by
    unfold stopBulk
    rw [beginCommand_bulk, hb]
  rw [hs]
  unfold loadOver
  rw [← hb]
  rfl

theorem stopBulk_ends {s : State} {b : BulkLoad} (hb : s.bulk = some b) (hub : HubInput) :
    stopBulk (beginCommand s hub) = endBulk (beginCommand s hub) b .stopped := by
  unfold stopBulk
  rw [beginCommand_bulk, hb]

/-- R164: the write of the reserved slot ends in a bus error. -/
theorem endBulk_error {s : State} {k : Nat} {rest : List BusAnswer} (h : s.hub.answers = .error k :: rest)
    {slot : ReservedSlot} (hs : s.rings.reserved = some slot) (b : BulkLoad) (o : OutcomeCode) :
    ∃ rs, endBulk s b o = loadOver s rs none (s.port.events ||| ringFailed) s.hub.mem rest ∧
      ∀ k, ∃ x, readAt formattedRing rs k = if k = 3 then { ringAt s k with state := x } else ringAt s k := by
  have he : endBulk s b o = afterReserved { withAnswers s rest with bulk := none, rings.reserved := none } false := by
    unfold endBulk
    rw [hs]
    dsimp only
    rw [busWrite_error h]
  rw [he]
  unfold afterReserved
  dsimp only
  rw [if_neg Bool.false_ne_true]
  split
  · exact ⟨_, rfl, ring_set s .failed⟩
  · exact ⟨_, rfl, ring_same s⟩

theorem endBulk_written {s : State} (h : AllOk s.hub.answers) {slot : ReservedSlot} (hs : s.rings.reserved = some slot)
    (b : BulkLoad) (o : OutcomeCode) :
    ∃ rs l, AllOk l ∧ endBulk s b o =
      loadOver s rs none (s.port.events ||| responseWritten 3) (slotMem s b o slot) l ∧
      ∀ k, ∃ x, readAt formattedRing rs k = if k = 3 then { ringAt s k with state := x } else ringAt s k := by
  obtain ⟨l, hl, he⟩ := endBulk_clean h hs b o
  rw [he]
  generalize slotMem s b o slot = mem
  generalize seenState (loadEnded s mem l) 3 = x
  split
  · exact ⟨writeAt formattedRing s.rings.rings 3 { ringAt s 3 with state := x }, l, hl, rfl, ring_set s x⟩
  · exact ⟨s.rings.rings, l, hl, rfl, ring_same s⟩

/-- Settles O59. -/
theorem stopCompletes : Obligations.StopCompletes := by
  intro hub s hrun hstop
  have h := And.intro hrun hstop
  constructor
  · intro hb hn
    obtain ⟨t, ht, hleaves, hres, hmem, hev⟩ := stopCompletion_leaves h (stopBulk_idle hb hub) hn (ring_same s)
    exact ⟨t, ht, hleaves, hmem, hres, hev⟩
  · intro b slot hb hs
    constructor
    · intro hclean
      obtain ⟨rs, l, hl, he, hr⟩ := endBulk_written (s := beginCommand s hub) hclean hs b .stopped
      obtain ⟨t, ht, hleaves, hres, hmem, hev⟩ :=
        stopCompletion_leaves h ((stopBulk_ends hb hub).trans he) (noReset_clean hl) hr
      exact ⟨t, ht, hleaves, hres, hmem, hev⟩
    · intro k rest hn ha
      obtain ⟨rs, he, hr⟩ := endBulk_error (s := beginCommand s hub) ha hs b .stopped
      obtain ⟨t, ht, hleaves, hres, hmem, hev⟩ :=
        stopCompletion_leaves h ((stopBulk_ends hb hub).trans he) hn hr
      exact ⟨t, ht, hleaves, hres, hmem, hev⟩

end Sys2Proof.Proofs
end

section
/-! PROOF. The writes of the control port and the engine commands (O56). -/

namespace Sys2Proof.Proofs

open Sys2Proof Sys2Proof.Machine Sys2Proof.Laws

-- One thread: the whole text is compiled in one process, whose threads the check limits.
set_option Elab.async false

/-! ## The fields of a value written (R172, R184) -/

theorem ringCommand_ring (v : BitVec 16) : (v.extractLsb' 0 3).toNat = v.toNat % 8 := by
  rw [BitVec.extractLsb'_toNat, Nat.shiftRight_zero]

theorem ringCommand_code (v : BitVec 16) : (v.extractLsb' 4 4).toNat = v.toNat / 16 % 16 := by
  rw [BitVec.extractLsb'_toNat, Nat.shiftRight_eq_div_pow]

theorem append_toNat (a b : BitVec 16) : (a ++ b).toNat = a.toNat * 65536 + b.toNat := by
  rw [BitVec.toNat_append, ← Nat.shiftLeft_add_eq_or_of_lt b.isLt, Nat.shiftLeft_eq]

theorem addressHalves_low (a : BitVec 32) (v : BitVec 16) :
    ((a >>> 16).setWidth 16 ++ v).toNat % 65536 = v.toNat ∧
      ((a >>> 16).setWidth 16 ++ v).toNat / 65536 = a.toNat / 65536 := by
  have h : ((a >>> 16).setWidth 16).toNat = a.toNat / 65536 := by
    rw [BitVec.toNat_setWidth, BitVec.toNat_ushiftRight, Nat.shiftRight_eq_div_pow]
    omega
  rw [append_toNat, h]
  omega

theorem addressHalves_high (a : BitVec 32) (v : BitVec 16) :
    (v ++ a.setWidth 16).toNat % 65536 = a.toNat % 65536 ∧ (v ++ a.setWidth 16).toNat / 65536 = v.toNat := by
  rw [append_toNat, BitVec.toNat_setWidth]
  omega

/-! ## Engine commands (R173, R174, R178) -/

theorem beginFormat_eq (s : State) : beginFormat s = { s with engine := formatTaken s.engine } := by
  unfold beginFormat formatTaken
  split <;> rfl

theorem beginKeep_eq (s : State) :
    beginKeep s = { s with engine := keepTaken s.engine, port.events := keepEvents s } := by
  unfold beginKeep keepTaken keepEvents
  by_cases h : s.engine.state = .stopped
  · by_cases hf : s.engine.formatted = true
    · rw [if_pos h, if_pos h, if_pos hf, if_pos hf, if_neg fun hc => Bool.false_ne_true (hc.2.symm.trans hf)]
    · rw [if_pos h, if_pos h, if_neg hf, if_neg hf, if_pos ⟨h, Bool.not_eq_true _ ▸ hf⟩]
      rfl
  · rw [if_neg h, if_neg h, if_neg fun hc => h hc.1]

theorem stopEngine_halts {s : State} (h : HaltsAtOnce s) : stopEngine s = haltEngine s := by
  obtain ⟨hrun, hstop, hin, hb⟩ := h
  unfold stopEngine
  rw [if_pos ⟨hrun, hstop⟩, if_pos ⟨hin, hb⟩]

theorem stopEngine_waits {s : State} (h : ¬ HaltsAtOnce s) : stopEngine s = { s with engine := stopTaken s.engine } := by
  unfold stopEngine stopTaken
  by_cases hr : s.engine.state = .running ∧ s.engine.stopPending = false
  · rw [if_pos hr, if_pos hr, if_neg fun hc => h ⟨hr.1, hr.2, hc.1, hc.2⟩]
  · rw [if_neg hr, if_neg hr]

theorem exec_initFormat {s : State} (h : s.engine.resetAsserted = false) :
    exec .initFormat s = .next { s with engine := formatTaken s.engine } :=
  congrArg Host.Outcome.next ((portAccess_released h _).trans (beginFormat_eq s))

theorem exec_initKeep {s : State} (h : s.engine.resetAsserted = false) :
    exec .initKeep s = .next { s with engine := keepTaken s.engine, port.events := keepEvents s } :=
  congrArg Host.Outcome.next ((portAccess_released h _).trans (beginKeep_eq s))

theorem keepTaken_unformatted {s : State} (h : s.engine.state = .stopped) (hf : s.engine.formatted = false) :
    (keepTaken s.engine).state = .stopped ∧ (keepTaken s.engine).lastInit = .unformatted ∧
      (keepEvents s).getLsbD 8 = true := by
  unfold keepTaken keepEvents
  rw [if_pos h, if_neg (show ¬ s.engine.formatted = true from fun hc => Bool.false_ne_true (hf.symm.trans hc)),
    if_pos ⟨h, hf⟩]
  exact ⟨h, rfl, raiseEvent_sets_flag s (i := 8) (by decide)⟩

/-- R178: the part once the engine has halted at once. -/
theorem haltEngine_halted {s t : State} (h : HaltsAtOnce s) {mem : Table Byte} {l : List BusAnswer}
    (ht : Ended (haltEngine (withHub s mem l)) t) : Halted mem s t where
  engine := ht.engine.trans (haltEngine_engine _)
  rings k := (ht.rings k).trans (ringAt_haltEngine _ k)
  counts r hr := by rw [ht.counts r hr, passOverOf_haltEngine, ite_self]
  port := ht.port.trans (haltEngine_port _)
  store := ht.store.trans (haltEngine_store _)
  settings := ht.settings.trans (haltEngine_settings _)
  bulk := (ht.bulk.trans (haltEngine_bulk _)).trans h.2.2.2
  notice := ht.notice.trans (haltEngine_notice _)
  noticeIndex := ht.noticeIndex.trans (haltEngine_noticeIndex _)
  reserved := ht.reserved.trans (haltEngine_reserved _)
  inHand := ht.inHand
  mem := ht.mem.trans (congrArg Hub.mem (haltEngine_hub _))
  pending := ht.pending.trans (haltEngine_pending _)

theorem engineStop_halted {s : State} (h : HaltsAtOnce s) : Halted s.hub.mem s (haltEngine s) where
  engine := haltEngine_engine s
  rings := ringAt_haltEngine s
  counts r _ := passOverOf_haltEngine s r
  port := haltEngine_port s
  store := haltEngine_store s
  settings := haltEngine_settings s
  bulk := (haltEngine_bulk s).trans h.2.2.2
  notice := haltEngine_notice s
  noticeIndex := haltEngine_noticeIndex s
  reserved := haltEngine_reserved s
  inHand := (haltEngine_inHand s).trans h.2.2.1
  mem := congrArg Hub.mem (haltEngine_hub s)
  pending := haltEngine_pending s

/-! ## The data port (R172) -/

/-- R172, R173: the engine once a value has been written to the selected word. -/
def engineWritten (s : State) (v : BitVec 16) : Engine :=
  if s.port.index.toNat = 0 then engineTaken s.engine v.toNat else s.engine

/-- R172, R181: the event flags once a value has been written to the selected word. -/
def eventsWritten (s : State) (v : BitVec 16) : BitVec 10 :=
  if s.port.index.toNat = 0 then engineEvents s v.toNat
  else if s.port.index.toNat = 5 then s.port.events &&& ~~~(v.setWidth 10) else s.port.events

def enablesWritten (s : State) (v : BitVec 16) : BitVec 10 :=
  if s.port.index.toNat = 6 then v.setWidth 10 else s.port.enables

/-- R172: the setup address once a value has been written to the selected word. -/
def addressWritten (s : State) (v : BitVec 16) : BitVec 32 :=
  if s.engine.state = .stopped then
    if s.port.index.toNat = 1 then (s.port.setupAddress >>> 16).setWidth 16 ++ v
    else if s.port.index.toNat = 2 then v ++ s.port.setupAddress.setWidth 16 else s.port.setupAddress
  else s.port.setupAddress

/-- The part once a word other than RING_COMMAND has been written and no STOP has halted the engine. -/
def wordWritten (s : State) (hub : HubInput) (v : BitVec 16) : State :=
  { beginCommand s hub with
    engine := engineWritten s v
    port := { s.port with
      events := eventsWritten s v, enables := enablesWritten s v, setupAddress := addressWritten s v } }

theorem engineCommand_eq {s : State} {v : BitVec 16} (h : ¬ (v = 3#16 ∧ HaltsAtOnce s)) :
    engineCommand s v = { s with engine := engineTaken s.engine v.toNat, port.events := engineEvents s v.toNat } := by
  unfold engineCommand engineTaken engineEvents
  generalize hv : v.toNat = value
  split
  · exact beginFormat_eq s
  · exact beginKeep_eq s
  · exact stopEngine_waits fun hc => h ⟨BitVec.eq_of_toNat_eq hv, hc⟩
  · rename_i h1 h2 h3
    rw [if_neg h1, if_neg h2, if_neg h3, if_neg h2]

theorem writeControlWord_eq {s : State} {hub : HubInput} {v : BitVec 16} (h3 : s.port.index ≠ 3#4)
    (hh : ¬ (s.port.index = 0#4 ∧ v = 3#16 ∧ HaltsAtOnce s)) :
    writeControlWord (beginCommand s hub) v = wordWritten s hub v := by
  have hi : (beginCommand s hub).port.index.toNat = s.port.index.toNat := rfl
  unfold writeControlWord wordWritten engineWritten eventsWritten enablesWritten addressWritten
  rw [hi]
  generalize hk : s.port.index.toNat = k
  split
  · rw [engineCommand_eq (s := beginCommand s hub) fun hc => hh ⟨BitVec.eq_of_toNat_eq hk, hc⟩]
    simp
    rfl
  · change writeAddressLow (beginCommand s hub) v = _
    by_cases hs : s.engine.state = .stopped <;> simp [writeAddressLow, hs]
    all_goals rfl
  · change writeAddressHigh (beginCommand s hub) v = _
    by_cases hs : s.engine.state = .stopped <;> simp [writeAddressHigh, hs]
    all_goals rfl
  · exact absurd (BitVec.eq_of_toNat_eq hk) h3
  · simp
    rfl
  · simp
    rfl
  · rename_i h0 h1 h2 h3 h5 h6
    simp only [if_neg h0, if_neg h1, if_neg h2, if_neg h5, if_neg h6, ite_self]
    rfl

theorem exec_written {v : BitVec 16} {hub : HubInput} {s : State} (h : s.engine.resetAsserted = false) :
    exec (.controlWordWrite v hub) s = .next (endCommand (writeControlWord (beginCommand s hub) v)) := by
  rw [exec_controlWordWrite, portAccess_released (s := beginCommand s hub) h]

theorem controlWordWrite_halts {v : BitVec 16} {hub : HubInput} {s : State} (h : s.engine.resetAsserted = false)
    (hn : NoReset hub.answers) (hi : s.port.index = 0#4) (hv : v = 3#16) (hh : HaltsAtOnce s) :
    ∃ t, exec (.controlWordWrite v hub) s = .next t ∧ Halted (hubStores s.hub.mem hub.writes) s t := by
  have hw : writeControlWord (beginCommand s hub) v = haltEngine (beginCommand s hub) := by
    unfold writeControlWord
    rw [beginCommand_port, hi, hv]
    exact stopEngine_halts hh
  have he : Ended (haltEngine (beginCommand s hub)) _ :=
    endCommand_closes (by rw [haltEngine_hub]; exact hn)
  exact ⟨_, exec_written h, haltEngine_halted (l := hub.answers) hh (hw ▸ he)⟩

theorem setupAddress_written (s : State) (v : BitVec 16) :
    (addressWritten s v).toNat % 65536 =
        (if s.port.index.toNat = 1 ∧ s.engine.state = .stopped then v.toNat
        else s.port.setupAddress.toNat % 65536) ∧
      (addressWritten s v).toNat / 65536 =
        (if s.port.index.toNat = 2 ∧ s.engine.state = .stopped then v.toNat
        else s.port.setupAddress.toNat / 65536) := by
  unfold addressWritten
  by_cases hs : s.engine.state = .stopped
  · by_cases h1 : s.port.index.toNat = 1
    · have h2 : s.port.index.toNat ≠ 2 := by omega
      simpa [hs, h1] using addressHalves_low s.port.setupAddress v
    · by_cases h2 : s.port.index.toNat = 2
      · simpa [hs, h2] using addressHalves_high s.port.setupAddress v
      · simp [h1, h2]
  · simp [hs]

/-- R159: a STOP of a ring does not look at hub memory or the bus. -/
theorem stopRing_withHub (s : State) (n : Nat) (mem : Table Byte) (l : List BusAnswer) :
    stopRing (withHub s mem l) n = withHub (stopRing s n) mem l := by
  unfold stopRing
  rw [ringAt_withHub]
  split
  · split
    · rfl
    · split <;> rename_i h
      · rw [if_pos (show s.rings.inHand = some n from h)]
        rfl
      · rw [if_neg (show ¬ s.rings.inHand = some n from h)]
        rfl
    all_goals rfl
  · rfl

theorem stopRing_inHand (s : State) (n : Nat) : (stopRing s n).rings.inHand = s.rings.inHand := by
  rcases stopRing_eq s n with ⟨h, -⟩ | h <;> rw [h]
  rfl

theorem stopRing_hub (s : State) (n : Nat) : (stopRing s n).hub = s.hub := by
  rcases stopRing_eq s n with ⟨h, -⟩ | h <;> rw [h]
  rfl

/-- R159: with no request in hand STOP by RING_COMMAND is RING_STOP. -/
theorem endCommand_stopRing {s : State} {hub : HubInput} {n : Nat} (hin : s.rings.inHand = none)
    (ha : s.hub.answers = []) (hw : hub.writes = []) (hn : NoReset hub.answers) :
    endCommand (stopRing (beginCommand s hub) n) = settleCounts (stopRing s n) := by
  have hb : beginCommand s hub = withHub s s.hub.mem hub.answers := by
    unfold beginCommand
    rw [hw]
    rfl
  rw [hb, stopRing_withHub]
  unfold endCommand
  rw [withHub_answers, resetTaken_noReset hn, if_neg Bool.false_ne_true]
  congr 1
  have h1 := stopRing_inHand s n
  have h2 := stopRing_hub s n
  generalize stopRing s n = u at *
  rw [hin] at h1
  obtain ⟨e, p, set, st, b, r, c, hubState, pend⟩ := u
  dsimp only at h1 h2
  subst h2
  unfold withHub
  dsimp only
  rw [← h1, ← ha]

/-- Settles O56. -/
theorem portWritesAct : Obligations.PortWritesAct := by
  refine ⟨fun v s h => ?_, fun v hub s h hn hi hv hh => controlWordWrite_halts h hn hi hv hh,
    fun v hub s h hn h3 hh => ?_, fun v hub s h h3 => ?_, fun s h => ?_⟩
  · exact ⟨_, congrArg Host.Outcome.next (portAccess_released h _), BitVec.toNat_setWidth _ _, rfl⟩
  · have hw := writeControlWord_eq (hub := hub) h3 hh
    have he : Ended (wordWritten s hub v) (endCommand (wordWritten s hub v)) := endCommand_closes hn
    have hp := he.port
    refine ⟨endCommand (wordWritten s hub v), by rw [exec_written h, hw], besidePort_ended he rfl rfl rfl rfl rfl rfl rfl,
      he.store, he.settings, he.notice, he.noticeIndex, (congrArg Port.index hp).trans rfl, he.engine, congrArg Port.events hp,
      congrArg Port.enables hp, ?_, ?_⟩
    · rw [hp]
      exact (setupAddress_written s v).1
    · rw [hp]
      exact (setupAddress_written s v).2
  · have hw : writeControlWord (beginCommand s hub) v = ringCommand (beginCommand s hub) v := by
      unfold writeControlWord
      rw [beginCommand_port, h3]
      rfl
    rw [exec_written h, hw]
    unfold ringCommand
    rw [ringCommand_ring, ringCommand_code]
    generalize v.toNat % 8 = n
    generalize v.toNat / 16 % 16 = command
    refine ⟨fun hc => ?_, fun hc => ?_, fun hc => ?_, fun hc hin ha hwr hn => ?_, fun hc hn => ?_⟩
    · subst hc; rfl
    · subst hc; rfl
    · subst hc; rfl
    · subst hc
      exact congrArg Host.Outcome.next (endCommand_stopRing hin ha hwr hn)
    · refine ⟨_, rfl, ?_⟩
      have hstands := besideRing_same (s := s) hn n
      rcases hc with rfl | hc
      · exact hstands
      · dsimp only
        split
        · omega
        · omega
        · omega
        · omega
        · exact hstands
  · refine ⟨exec_initFormat h, exec_initKeep h, fun hh => ?_, fun hh => ?_, keepTaken_unformatted, fun hs => ?_,
      fun hs => ?_⟩
    · exact ⟨_, congrArg Host.Outcome.next (stopEngine_halts hh), engineStop_halted hh⟩
    · exact congrArg Host.Outcome.next (stopEngine_waits hh)
    · exact ⟨if_neg hs, if_neg hs⟩
    · exact if_neg fun hc => hs hc.1

end Sys2Proof.Proofs
end

section
/-! PROOF. The rule of each request, and the grants that carry out none (O51). -/

namespace Sys2Proof.Proofs

open Sys2Proof Sys2Proof.Machine Sys2Proof.Laws

-- One thread: the whole text is compiled in one process, whose threads the check limits.
set_option Elab.async false

/-! ## The rule of a request (9.8) -/

/-- The rule over the records of each code; BULK_CARD_LOAD and TARIFF_LOAD have none. -/
def workOf : Nat → Work → Request → Reply × Work
  | 1 => bikeArrived
  | 2 => bikeRemoved
  | 3 => dockStatus
  | 4 => cardCheck
  | 5 => hireRelease
  | 6 => hireQuery
  | 7 => cancelReservation
  | 8 => vanShiftStart
  | 9 => vanShiftEnd
  | 10 => vanSuggest
  | 11 => vanClaim
  | 12 => vanReleaseClaim
  | 13 => vanLoad
  | 14 => workshopDrop
  | 15 => workshopPickup
  | 16 => fieldClear
  | 17 => crewFlag
  | 18 => vanQuery
  | 19 => timeSet
  | 21 => stationDefine
  | 22 => vanDefine
  | 23 => bikeCommission
  | 24 => bikeDecommission
  | 25 => dockCommission
  | 26 => cardPut
  | 27 => cardCredit
  | 28 => cardStatus
  | 29 => cardRetire
  | 30 => cardQuery
  | 32 => reserve
  | 33 => ticketClose
  | 34 => dockRestore
  | 35 => ticketQuery
  | 36 => bikeQuery
  | 37 => stationQuery
  | _ => fun w _ => ({ outcome := .badRequest }, w)

/-- The rule of each code. -/
def ruleOf (code : Byte) : State → Request → Handled :=
  if code = 20#8 then tariffLoad else if code = 31#8 then bulkCardLoad else workRule (workOf code.toNat)

/-- A request's command grants its ring, with the rule of its code. -/
theorem exec_request {c : Instr} {code : Byte} {q : Request} (h : requestOf c = some (code, q)) (s : State) :
    exec c s = .next (grantRequest code (ruleOf code) q s) := by
  cases c <;> simp only [requestOf, Option.some.injEq, Prod.mk.injEq, reduceCtorEq] at h
  all_goals
    obtain ⟨rfl, rfl⟩ := h
    rfl

theorem workOf_blind (k : Nat) (w : Work) (q : Request) (l : List BusAnswer) :
    workOf k w { q with hub.answers := l } = workOf k w q := by
  unfold workOf
  split <;> rfl

/-! ## The end of a grant that does not look again (R159, R160) -/

/-- The ring of a grant that ends in state `x`, unless a STOP is pending. -/
def endedRing (u : State) (n : Nat) (x : RingState) : Ring :=
  { ringAt u n with
    state := if (ringAt u n).stopPending || u.engine.stopPending then .off else x
    stopPending := false }

theorem endGrant_eq (u : State) (n : Nat) (x : RingState) :
    endGrant u n (fun v => setRingState v n x) = setRing u n (endedRing u n x) := by
  unfold endGrant endedRing
  split
  · rfl
  · rename_i h
    rw [Bool.or_eq_true, not_or, Bool.not_eq_true] at h
    change setRing u n { ringAt u n with state := x } = _
    rw [← h.1]

/-- The state of the ring of request `q` at the end of such a grant. -/
theorem endedRing_of {q : Request} {s u : State} {r : Ring} (x : RingState)
    (hr : ringAt u q.ring.val = { r with stopPending := (ringAt s q.ring.val).stopPending || q.stopRing })
    (he : u.engine = { s.engine with stopPending := q.stopEngine }) :
    endedRing u q.ring.val x =
      { r with
        state := if (ringAt s q.ring.val).stopPending || q.stopRing || q.stopEngine then .off else x
        stopPending := false } := by
  unfold endedRing
  rw [he]
  dsimp only
  rw [hr]

/-! ## A descriptor taken back (R160, R170) -/

theorem exec_grantWithoutWork {code : Byte} {q : Request} {s : State} (ho : owned q = false) :
    exec (.grantWithoutWork code q) s = .next (grantRequest code noRule q s) := by
  change execGrantWithoutWork code q s = _
  unfold execGrantWithoutWork
  rw [ho]
  rfl

theorem exec_unknownRequestCode {code : Byte} {q : Request} {s : State} (hu : codeUnknown s code q = true) :
    exec (.unknownRequestCode code q) s = .next (grantRequest code noRule q s) :=
  if_pos hu

/-- Hub memory once the descriptor `q` stands at the head of its ring. -/
def handedMem (code : Byte) (q : Request) (s : State) : Table Byte :=
  memWrite (hubStores s.hub.mem q.hub.writes) (headAddress s q.ring.val) (descriptorBytes code q)

theorem headAddress_held {q : Request} {s u : State} (h : Held q s u) :
    headAddress u q.ring.val = headAddress s q.ring.val := by
  unfold headAddress
  rw [h.ring]

/-- What the grant of a ring leaves, its descriptor being in the taking; hub memory and the bus apart. -/
structure Grasp (q : Request) (s u : State) : Prop where
  store : u.store = s.store
  settings : u.settings = s.settings
  bulk : u.bulk = s.bulk
  port : u.port = s.port
  pending : u.pending = s.pending
  notice : u.rings.notice = s.rings.notice
  noticeIndex : u.rings.noticeIndex = s.rings.noticeIndex
  reserved : u.rings.reserved = s.rings.reserved
  engine : u.engine = { s.engine with stopPending := q.stopEngine }
  ring : ringAt u q.ring.val =
    { ringAt s q.ring.val with stopPending := (ringAt s q.ring.val).stopPending || q.stopRing }
  others : ∀ k, k ≠ q.ring.val → ringAt u k = ringAt s k
  counts : ∀ r ∈ requesters, passOverOf u r = countAfterGrant s (.ring q.ring.val) r

theorem Grasp.of_held {q : Request} {s u : State} (h : Held q s u) (m : Table Byte) (l : List BusAnswer) :
    Grasp q s (withHub u m l) :=
  ⟨h.store, h.settings, h.bulk, h.port, h.pending, h.notice, h.noticeIndex, h.reserved, h.engine, h.ring, h.others,
    h.counts⟩

theorem Grasp.onHub {q : Request} {s u : State} (h : Grasp q s u) (m : Table Byte) (l : List BusAnswer) :
    Grasp q s (withHub u m l) :=
  ⟨h.store, h.settings, h.bulk, h.port, h.pending, h.notice, h.noticeIndex, h.reserved, h.engine, h.ring, h.others,
    h.counts⟩

/-- The grant of a ring at the head of which the descriptor of `q` stands. -/
def handed (code : Byte) (q : Request) (s : State) : State :=
  withHub (grantRing q s) (handedMem code q s) q.hub.answers

theorem handed_eq {code : Byte} {q : Request} {s : State} (hg : granted q s = true) :
    { grantRing q s with
      hub.mem := memWrite (grantRing q s).hub.mem (headAddress (grantRing q s) q.ring.val) (descriptorBytes code q) } =
      handed code q s := by
  have hh := grantRing_held hg
  rw [headAddress_held hh, hh.mem]
  unfold handed withHub
  rw [← hh.answers]
  rfl

/-- The state in which the descriptor is read. -/
theorem handed_grasp (code : Byte) {q : Request} {s : State} (hg : granted q s = true) :
    ∃ u, handed code q s = u ∧ Grasp q s u ∧ u.hub.mem = handedMem code q s ∧ u.hub.answers = q.hub.answers :=
  ⟨_, rfl, .of_held (grantRing_held hg) _ _, rfl, rfl⟩

/-- R160 from step 2 on: what follows the read of the descriptor at address `a`, which answered `p`. -/
def afterRead (code : Byte) (rule : State → Request → Handled) (q : Request) (a : Nat) (p : Option Nat × State) : State :=
  match p with
  | (none, u) => endGrant (raiseEvent u ringFailed) q.ring.val (fun v => setRingState v q.ring.val .failed)
  | (some _, u) =>
    if owned q then
      match busWrite u a (writtenBackBytes code q) false with
      | (false, w) => endGrant (raiseEvent w ringFailed) q.ring.val (fun v => setRingState v q.ring.val .failed)
      | (true, w) =>
        carryOut code rule q
          (setRing w q.ring.val { ringAt w q.ring.val with
            head := advance (ringAt w q.ring.val).request (ringAt w q.ring.val).head })
    else endGrant u q.ring.val (fun v => setRingState v q.ring.val .idle)

section
variable {code : Byte} {q : Request} {s : State} {rule : State → Request → Handled} (hg : granted q s = true)
include hg

theorem takeDescriptor_handed :
    takeDescriptor code rule q (grantRing q s) =
      afterRead code rule q (headAddress s q.ring.val)
        (busRead (handed code q s) (headAddress s q.ring.val) 32) := by
  rw [← handed_eq hg, ← headAddress_held (grantRing_held hg)]
  rfl

/-- R160 step 1: the read of the descriptor fails. -/
theorem takeDescriptor_unread {u : State}
    (hr : busRead (handed code q s) (headAddress s q.ring.val) 32 = (none, u)) :
    takeDescriptor code rule q (grantRing q s) =
      setRing (raiseEvent u ringFailed) q.ring.val (endedRing (raiseEvent u ringFailed) q.ring.val .failed) := by
  rw [takeDescriptor_handed hg, hr]
  exact endGrant_eq _ _ _

/-- R160 step 2, R170: the descriptor read has been taken back. -/
theorem takeDescriptor_back (ho : owned q = false) {u : State} {v : Nat}
    (hr : busRead (handed code q s) (headAddress s q.ring.val) 32 = (some v, u)) :
    takeDescriptor code rule q (grantRing q s) = setRing u q.ring.val (endedRing u q.ring.val .idle) := by
  rw [takeDescriptor_handed hg, hr, afterRead, ho, if_neg Bool.false_ne_true]
  exact endGrant_eq _ _ _

/-- R160 step 3: the write-back of the descriptor fails. -/
theorem takeDescriptor_unwritten (ho : owned q = true) {u w : State} {v : Nat}
    (hr : busRead (handed code q s) (headAddress s q.ring.val) 32 = (some v, u))
    (hw : busWrite u (headAddress s q.ring.val) (writtenBackBytes code q) false = (false, w)) :
    takeDescriptor code rule q (grantRing q s) =
      setRing (raiseEvent w ringFailed) q.ring.val (endedRing (raiseEvent w ringFailed) q.ring.val .failed) := by
  rw [takeDescriptor_handed hg, hr, afterRead, ho, if_pos rfl, hw]
  exact endGrant_eq _ _ _

/-- R160 steps 3 and 4: the descriptor is written back, and its checks and its rule begin. -/
theorem takeDescriptor_written (ho : owned q = true) {u w : State} {v : Nat}
    (hr : busRead (handed code q s) (headAddress s q.ring.val) 32 = (some v, u))
    (hw : busWrite u (headAddress s q.ring.val) (writtenBackBytes code q) false = (true, w)) :
    takeDescriptor code rule q (grantRing q s) =
      carryOut code rule q
        (setRing w q.ring.val { ringAt w q.ring.val with
          head := advance (ringAt w q.ring.val).request (ringAt w q.ring.val).head }) := by
  rw [takeDescriptor_handed hg, hr, afterRead, ho, if_pos rfl, hw]

end

/-- A grant that finds its descriptor taken back: what it leaves (R159, R170). -/
theorem grantRequest_back {code : Byte} {q : Request} {s : State} (rule : State → Request → Handled)
    (hg : granted q s = true) (ho : owned q = false) (hb : CleanBus q.hub) :
    ∃ t, grantRequest code rule q s = t ∧ t.store = s.store ∧
      ringAt t q.ring.val =
        { ringAt s q.ring.val with
          state := if (ringAt s q.ring.val).stopPending || q.stopRing || q.stopEngine then .off else .idle
          stopPending := false } ∧
      (∀ k, k ≠ q.ring.val → ringAt t k = ringAt s k) ∧
      boardOf t = ⟨handedMem code q s, s.rings.noticeIndex, s.port.events⟩ ∧
      t.engine = { s.engine with stopPending := q.stopEngine } ∧ t.bulk = s.bulk ∧
      t.rings.reserved = s.rings.reserved ∧ Kept s t ∧ Counted (.ring q.ring.val) s t := by
  obtain ⟨u, hu, hh, hm, ha⟩ := handed_grasp code hg
  have hclean : AllOk u.hub.answers := ha ▸ hb
  have ht := takeDescriptor_back (rule := rule) hg ho (busRead_clean (hu ▸ hclean) (headAddress s q.ring.val) 32)
  rw [hu] at ht
  have hring := endedRing_of (u := withAnswers u u.hub.answers.tail) .idle hh.ring hh.engine
  have he : Ended _ (endCommand (takeDescriptor code rule q (grantRing q s))) :=
    endCommand_ended (by rw [ht]; exact hclean.tail)
  refine ⟨_, rfl, ?_⟩
  unfold grantRequest
  rw [if_pos hg]
  generalize endCommand _ = t at he
  rw [ht, hring] at he
  refine ⟨he.store.trans hh.store, ?_, fun k hk => ?_, ?_, he.engine.trans hh.engine, he.bulk.trans hh.bulk,
    he.reserved.trans hh.reserved, ⟨he.settings.trans hh.settings, ?_, ?_, ?_, ?_, he.notice.trans hh.notice, he.inHand,
    he.answers, he.pending.trans hh.pending⟩, fun r hr => ?_⟩
  · rw [he.rings, ringAt_setRing_same]
  · rw [he.rings, ringAt_setRing, if_neg hk]
    exact hh.others k hk
  · unfold boardOf
    rw [he.mem.trans hm, he.noticeIndex.trans hh.noticeIndex, he.port.trans hh.port]
  · rw [he.port.trans hh.port]
  · rw [he.port.trans hh.port]
  · rw [he.port.trans hh.port]
  · rw [he.port.trans hh.port]
  · rw [he.counts r hr]
    exact ite_congr rfl (fun _ => hh.counts r hr) (fun _ => rfl)

/-! ## A descriptor that fails a check (R161, R171) -/

theorem descriptorCheck_sum {code : Byte} {q : Request} {s : State} (hc : s.settings.checking = true)
    (hs : descriptorSum code q ≠ 255) : descriptorCheck s code q = some .descCheck :=
  if_pos ⟨hc, hs⟩

theorem descriptorCheck_unknown {code : Byte} {q : Request} {s : State}
    (hs : s.settings.checking = false ∨ descriptorSum code q = 255) (hn : codeEntry code = none) :
    descriptorCheck s code q = some .badRequest := by
  unfold descriptorCheck
  rw [if_neg, hn]
  rintro ⟨hc, hd⟩
  rcases hs with hs | hs
  · exact Bool.false_ne_true (hs.symm.trans hc)
  · exact hd hs

theorem completes_refused {code : Byte} {q : Request} {s : State} (hu : codeUnknown s code q = true)
    (hg : granted q s = true) (ho : owned q = true) (hb : CleanBus q.hub) {o : OutcomeCode}
    (hd : descriptorCheck s code q = some o) :
    Completes (.unknownRequestCode code q) code q s { outcome := o } [] (fun t => t = s.store) := by
  obtain ⟨hs, ha⟩ := grantRequest_refused hg ho hb hd noRule
  exact ⟨_, exec_unknownRequestCode hu, ha, hs⟩

/-- Settles O51. -/
theorem grantsThatCarryOutNoRule : Obligations.GrantsThatCarryOutNoRule := by
  refine ⟨fun c code q s o hc hg ho hb hd => ?_, fun code q s hg ho hb => ⟨fun hk hs => ?_, fun hs hn => ?_⟩,
    fun code q s hg ho hb => ?_⟩
  · obtain ⟨hs, ha⟩ := grantRequest_refused hg ho hb hd (ruleOf code)
    exact ⟨_, exec_request hc s, ha, hs⟩
  · refine completes_refused ?_ hg ho hb (descriptorCheck_sum hk hs)
    unfold codeUnknown
    rw [hk, bne_iff_ne.mpr hs]
    rfl
  · refine completes_refused ?_ hg ho hb (descriptorCheck_unknown hs hn)
    unfold codeUnknown
    rw [hn]
    exact Bool.or_true _
  · obtain ⟨t, ht, h⟩ := grantRequest_back noRule hg ho hb
    exact ⟨t, (exec_grantWithoutWork ho).trans (congrArg Host.Outcome.next ht), h⟩

end Sys2Proof.Proofs
end

section
/-! PROOF. A bus error on a descriptor or on a response (O52). -/

namespace Sys2Proof.Proofs

open Sys2Proof Sys2Proof.Machine Sys2Proof.Laws

-- One thread: the whole text is compiled in one process, whose threads the check limits.
set_option Elab.async false

/-! ## Accesses that succeed, and accesses at which no reset is taken (R182) -/

section
variable {s : State} {rest : List BusAnswer} (h : s.hub.answers = .ok :: rest)
include h

theorem busAnswer_ok : busAnswer s = (.ok, withAnswers s rest) := by
  unfold busAnswer
  rw [h]
  rfl

theorem busRead_ok (a n : Nat) : busRead s a n = (some (memRead s.hub.mem a n), withAnswers s rest) := by
  unfold busRead
  rw [busAnswer_ok h]
  rfl

theorem busWrite_ok (a : Nat) (l : List Byte) (p : Bool) :
    busWrite s a l p = (true, withHub s (memWrite s.hub.mem a l) rest) := by
  unfold busWrite
  rw [busAnswer_ok h]
  rfl

end

section
variable {s : State} (h : NoReset s.hub.answers)
include h

theorem busAnswer_noReset : ∃ l, (busAnswer s).2 = withAnswers s l ∧ NoReset l := by
  unfold busAnswer
  split
  · exact ⟨s.hub.answers, rfl, h⟩
  · rename_i rest he
    exact ⟨rest, rfl, NoReset.tail (he ▸ h)⟩
  · rename_i k rest he
    exact ⟨rest, rfl, NoReset.tail (he ▸ h)⟩
  · rename_i d rest he
    exact absurd (he ▸ List.mem_cons_self ..) (h d)

theorem busRead_noReset (a n : Nat) : ∃ v l, busRead s a n = (v, withAnswers s l) ∧ NoReset l := by
  obtain ⟨l, he, hl⟩ := busAnswer_noReset h
  unfold busRead
  split <;> rename_i hb <;> rw [hb] at he <;> exact ⟨_, l, by rw [← he], hl⟩

theorem busOwn_noReset (a : Nat) : ∃ v l, busOwn s a = (v, withAnswers s l) ∧ NoReset l := by
  obtain ⟨v, l, he, hl⟩ := busRead_noReset h a 1
  unfold busOwn
  rw [he]
  cases v with
  | none => exact ⟨none, l, rfl, hl⟩
  | some v => exact ⟨_, l, rfl, hl⟩

theorem busWrite_noReset (a : Nat) (b : List Byte) :
    ∃ v m l, busWrite s a b false = (v, withHub s m l) ∧ NoReset l := by
  obtain ⟨l, he, hl⟩ := busAnswer_noReset h
  unfold busWrite
  split <;> rename_i hb <;> rw [hb] at he <;> dsimp only at he <;> subst he
  · exact ⟨true, _, l, rfl, hl⟩
  · exact ⟨false, s.hub.mem, l, rfl, hl⟩
  · exact ⟨false, s.hub.mem, l, rfl, hl⟩

end

/-! ## Notices on any bus (R166) -/

theorem eventFlag_other {i j : Nat} (h : i ≠ j) : (eventFlag j).getLsbD i = false := by
  unfold eventFlag
  rw [BitVec.getLsbD_shiftLeft, BitVec.getLsbD_one]
  by_cases hl : i < j
  · simp [hl]
  · have hi : ¬ i - j = 0 := by omega
    simp [hi]

theorem raised_bit (e : BitVec 10) {i j : Nat} (h : i ≠ j) : (e ||| eventFlag j).getLsbD i = e.getLsbD i := by
  rw [BitVec.getLsbD_or, eventFlag_other h, Bool.or_false]

/-- The part once notices have been written or dropped: no event flag but the two of the notice ring is set. -/
structure Noticed (s : State) (b : Board) (l : List BusAnswer) (t : State) : Prop where
  eq : t = putBoard s b l
  noReset : NoReset l
  flags : ∀ i, i ≠ 4 → i ≠ 5 → b.events.getLsbD i = s.port.events.getLsbD i

theorem dropNotice_noticed {s : State} {l : List BusAnswer} (hl : NoReset l) (m : Table Byte) :
    Noticed s ⟨m, s.rings.noticeIndex, s.port.events ||| noticeLost⟩ l (dropNotice (withHub s m l)) :=
  ⟨rfl, hl, fun _ _ h5 => raised_bit _ h5⟩

theorem writeNotice_noticed {s : State} (h : NoReset s.hub.answers) (n : Notice) :
    ∃ b l, Noticed s b l (writeNotice s n) := by
  obtain ⟨v, l, ho, hl⟩ := busOwn_noReset h (slotAddress s.rings.notice s.rings.noticeIndex)
  unfold writeNotice
  dsimp only
  rw [ho]
  match v with
  | none => exact ⟨_, _, dropNotice_noticed hl s.hub.mem⟩
  | some false => exact ⟨_, _, dropNotice_noticed hl s.hub.mem⟩
  | some true =>
    dsimp only
    obtain ⟨w, m, l', hw, hl'⟩ := busWrite_noReset (s := withAnswers s l) hl
      (slotAddress s.rings.notice s.rings.noticeIndex) (noticeBytes (withAnswers s l).store.timer.clock n)
    rw [hw]
    match w with
    | false => exact ⟨_, _, dropNotice_noticed hl' m⟩
    | true =>
      exact ⟨⟨m, advance s.rings.notice s.rings.noticeIndex, s.port.events ||| noticeWritten⟩, l', rfl, hl',
        fun _ h4 _ => raised_bit _ h4⟩

theorem writeNotices_noticed (ns : List Notice) {s : State} (h : NoReset s.hub.answers) :
    ∃ b l, Noticed s b l (writeNotices s ns) := by
  induction ns generalizing s with
  | nil => exact ⟨boardOf s, s.hub.answers, rfl, h, fun _ _ _ => rfl⟩
  | cons n ns ih =>
    obtain ⟨b, l, he, hl, hf⟩ := writeNotice_noticed h n
    obtain ⟨b', l', he', hl', hf'⟩ := ih (s := writeNotice s n) (by rw [he]; exact hl)
    refine ⟨b', l', ?_, hl', fun i h4 h5 => ?_⟩
    · change writeNotices (writeNotice s n) ns = _
      rw [he', he]
      rfl
    · rw [hf' i h4 h5, he]
      exact hf i h4 h5

/-! ## A response that fails (R163, R165) -/

theorem writeResponse_error {s : State} {k : Nat} {rest : List BusAnswer} (h : s.hub.answers = .error k :: rest)
    (n : Nat) (code : Byte) (q : Request) (r : Reply) :
    ∃ m, writeResponse s n code q r = (false, withHub s m rest) := by
  unfold writeResponse writeBlock
  by_cases hw : wantsBlock q r = true
  · rw [if_pos hw]
    unfold busWrite
    rw [busAnswer_error h]
    exact ⟨_, rfl⟩
  · rw [if_neg hw]
    dsimp only
    rw [busWrite_error h]
    exact ⟨s.hub.mem, rfl⟩

/-- R165: the answer of a request whose response fails. -/
theorem answer_error {s : State} {k : Nat} {rest : List BusAnswer} (h : s.hub.answers = .error k :: rest)
    (hn : NoReset rest) (n : Nat) (code : Byte) (q : Request) (r : Reply) (ns : List Notice) :
    ∃ b l, answer s n code q r ns = setRing (putBoard s b l) n (endedRing s n .failed) ∧ NoReset l ∧
      b.events.getLsbD 6 = true ∧ ∀ i < 4, b.events.getLsbD i = s.port.events.getLsbD i := by
  obtain ⟨m, hw⟩ := writeResponse_error h n code q r
  obtain ⟨b, l, he, hl, hf⟩ := writeNotices_noticed ns (s := raiseEvent (withHub s m rest) ringFailed) hn
  refine ⟨b, l, ?_, hl, ?_, fun i hi => ?_⟩
  · unfold answer
    rw [hw]
    dsimp only
    rw [he, endGrant_eq]
    rfl
  · rw [hf 6 (by decide) (by decide)]
    exact raiseEvent_sets_flag s (i := 6) (by decide)
  · rw [hf i (by omega) (by omega)]
    exact raised_bit _ (by omega)

/-! ## What the ring of a failed grant is left as (R160, R165) -/

/-- What a grant that fails leaves of its ring, the other rings, the settings and the event flags. -/
def GrantFails (q : Request) (s t : State) : Prop :=
  (ringAt t q.ring.val).state =
      (if (ringAt s q.ring.val).stopPending || q.stopRing || q.stopEngine then .off else .failed) ∧
    (ringAt t q.ring.val).stopPending = false ∧
    (ringAt t q.ring.val).responseIndex = (ringAt s q.ring.val).responseIndex ∧
    (∀ k, k ≠ q.ring.val → ringAt t k = ringAt s k) ∧ t.settings = s.settings ∧
    t.port.events.getLsbD 6 = true ∧ t.port.events.getLsbD q.ring.val = s.port.events.getLsbD q.ring.val

/-- R160: the descriptor of a grant fails at its read or at its write-back. -/
theorem descriptor_fails {q : Request} {s u t : State} (h : Grasp q s u)
    (ht : Ended (setRing (raiseEvent u ringFailed) q.ring.val (endedRing (raiseEvent u ringFailed) q.ring.val .failed)) t) :
    GrantFails q s t ∧ t.store = s.store ∧ (ringAt t q.ring.val).head = (ringAt s q.ring.val).head ∧
      t.bulk = s.bulk ∧ t.port.events = s.port.events ||| ringFailed := by
  have hring := endedRing_of (u := raiseEvent u ringFailed) .failed h.ring h.engine
  rw [hring] at ht
  have hr := (ht.rings q.ring.val).trans (ringAt_setRing_same _ _ _)
  have he : t.port.events = s.port.events ||| ringFailed := by
    rw [ht.port, setRing_port, raiseEvent_events, h.port]
  refine ⟨⟨by rw [hr], by rw [hr], by rw [hr], fun k hk => ?_, ht.settings.trans h.settings, ?_, ?_⟩,
    ht.store.trans h.store, by rw [hr], ht.bulk.trans h.bulk, he⟩
  · rw [ht.rings, ringAt_setRing, if_neg hk]
    exact h.others k hk
  · rw [he]
    exact raiseEvent_sets_flag s (i := 6) (by decide)
  · have := q.ring.isLt
    rw [he]
    exact raised_bit _ (by omega)

/-- R160: the first or the second access of a grant fails. -/
theorem grantRequest_descriptor_error {code : Byte} {q : Request} {s : State} (rule : State → Request → Handled)
    (hg : granted q s = true) {k : Nat} {rest : List BusAnswer} (hn : NoReset rest)
    (ha : q.hub.answers = .error k :: rest ∨ (owned q = true ∧ q.hub.answers = .ok :: .error k :: rest)) :
    ∃ t, grantRequest code rule q s = t ∧ GrantFails q s t ∧ t.store = s.store ∧
      (ringAt t q.ring.val).head = (ringAt s q.ring.val).head ∧ t.bulk = s.bulk ∧
      t.port.events = s.port.events ||| ringFailed := by
  obtain ⟨u, hu, hh, hm, hans⟩ := handed_grasp code hg
  have hread : (handed code q s).hub.answers = q.hub.answers := hu ▸ hans
  have ht : ∃ m, takeDescriptor code rule q (grantRing q s) =
      setRing (raiseEvent (withHub u m rest) ringFailed) q.ring.val
        (endedRing (raiseEvent (withHub u m rest) ringFailed) q.ring.val .failed) := by
    rcases ha with ha | ⟨ho, ha⟩
    · rw [takeDescriptor_unread hg (busRead_error (hread.trans ha) _ _), hu]
      exact ⟨u.hub.mem, rfl⟩
    · rw [takeDescriptor_unwritten hg ho (busRead_ok (hread.trans ha) _ _)
        (busWrite_error (s := withAnswers (handed code q s) (.error k :: rest)) rfl _ _), hu]
      exact ⟨u.hub.mem, rfl⟩
  obtain ⟨m, ht⟩ := ht
  refine ⟨_, if_pos hg, descriptor_fails (hh.onHub m rest) ?_⟩
  rw [ht]
  exact endCommand_closes hn

/-! ## A request whose response fails (R165) -/

/-- R160 steps 3 and 4: the first two accesses of a grant succeed, and its checks and its rule begin. -/
theorem takeDescriptor_passes {code : Byte} {q : Request} {s : State} (rule : State → Request → Handled)
    (hg : granted q s = true) (ho : owned q = true) {rest : List BusAnswer}
    (ha : q.hub.answers = .ok :: .ok :: rest) :
    ∃ u, RuleState code q s (withAnswers u []) ∧ u.hub.answers = rest ∧
      takeDescriptor code rule q (grantRing q s) = carryOut code rule q u := by
  obtain ⟨u, hu, hh, hm, hans⟩ := handed_grasp code hg
  have hread : (handed code q s).hub.answers = .ok :: .ok :: rest := (hu ▸ hans : _).trans ha
  have ht := takeDescriptor_written (rule := rule) hg ho (busRead_ok hread (headAddress s q.ring.val) 32)
    (busWrite_ok (s := withAnswers (handed code q s) (.ok :: rest)) rfl (headAddress s q.ring.val)
      (writtenBackBytes code q) false)
  rw [hu] at ht
  refine ⟨_, ?_, ?_, ht⟩
  · refine ⟨hh.store, hh.bulk, hh.settings, ?_, nofun, hh.port, hh.pending, hh.notice, hh.noticeIndex, hh.reserved,
      hh.engine, ?_, fun k hk => ?_, hh.counts⟩
    · change memWrite u.hub.mem _ _ = _
      rw [hm]
      rfl
    · rw [ringAt_withAnswers, ringAt_setRing_same, ringAt_withHub, ringAt_withAnswers, hh.ring]
    · rw [ringAt_withAnswers, ringAt_setRing, if_neg hk]
      exact hh.others k hk
  · rfl

/-- R161: the records that a request with a rule over the records leaves. -/
def workStore (code : Byte) (w : Work → Request → Reply × Work) (q : Request) (s : State) : Store :=
  if descriptorCheck s code q = none then (w (begun s) q).2.settle.store else s.store

theorem carryOut_work {code : Byte} {w : Work → Request → Reply × Work} {q : Request} {s u : State}
    (hu : RuleState code q s (withAnswers u [])) :
    ∃ r l, carryOut code (workRule w) q u =
      answer { u with store := workStore code w q s } q.ring.val code q r l := by
  have hset : u.settings = s.settings := hu.settings
  have hst : u.store = s.store := hu.store
  have hd := descriptorCheck_congr hset code q
  unfold carryOut workStore
  cases hc : descriptorCheck s code q with
  | some o =>
    rw [hd, hc, if_neg nofun, ← hst]
    exact ⟨_, _, rfl⟩
  | none =>
    rw [hd, hc, if_pos rfl]
    dsimp only
    unfold workRule
    rw [hset, hst]
    exact ⟨_, _, rfl⟩

theorem grantRequest_workStore {code : Byte} {w : Work → Request → Reply × Work} {q : Request} {s : State}
    (hg : granted q s = true) (ho : owned q = true) (hb : CleanBus q.hub) :
    (grantRequest code (workRule w) q s).store = workStore code w q s := by
  unfold workStore
  cases hc : descriptorCheck s code q with
  | some o =>
    rw [if_neg nofun]
    exact (grantRequest_refused hg ho hb hc _).1
  | none =>
    rw [if_pos rfl]
    exact (grantRequest_work ⟨hg, ho, hb, hc⟩ w).1

theorem workStore_blind (code : Byte) (k : Nat) (q : Request) (s : State) (l : List BusAnswer) :
    workStore code (workOf k) { q with hub.answers := l } s = workStore code (workOf k) q s := by
  unfold workStore
  rw [workOf_blind]
  rfl

theorem grantRequest_response_error {code : Byte} {w : Work → Request → Reply × Work} {q : Request} {s : State}
    (hg : granted q s = true) (ho : owned q = true) {k : Nat} {rest : List BusAnswer} (hn : NoReset rest)
    (ha : q.hub.answers = .ok :: .ok :: .error k :: rest) :
    ∃ t, grantRequest code (workRule w) q s = t ∧ GrantFails q s t ∧ t.store = workStore code w q s ∧
      t.bulk = s.bulk ∧
      (ringAt t q.ring.val).head = advance (ringAt s q.ring.val).request (ringAt s q.ring.val).head := by
  obtain ⟨u, hu, hans, ht⟩ := takeDescriptor_passes (code := code) (workRule w) hg ho ha
  obtain ⟨r, ns, hc⟩ := carryOut_work (w := w) hu
  obtain ⟨b, l, he, hl, h6, hi⟩ := answer_error (s := { u with store := workStore code w q s }) hans hn q.ring.val code q r ns
  generalize workStore code w q s = st at *
  have hring := endedRing_of (q := q) (s := s) (u := { u with store := st })
    (r := { ringAt s q.ring.val with head := advance (ringAt s q.ring.val).request (ringAt s q.ring.val).head })
    .failed hu.ring hu.engine
  have hend : Ended _ (endCommand (takeDescriptor code (workRule w) q (grantRing q s))) :=
    endCommand_closes (by rw [ht, hc, he]; exact hl)
  refine ⟨_, if_pos hg, ?_⟩
  generalize endCommand _ = t at hend
  rw [ht, hc, he, hring] at hend
  have hr := (hend.rings q.ring.val).trans (ringAt_setRing_same _ _ _)
  refine ⟨⟨by rw [hr], by rw [hr], by rw [hr], fun k hk => ?_, hend.settings.trans hu.settings, ?_, ?_⟩,
    hend.store, hend.bulk.trans hu.bulk, by rw [hr]⟩
  · rw [hend.rings, ringAt_setRing, if_neg hk]
    exact hu.others k hk
  · rw [hend.port]
    exact h6
  · rw [hend.port]
    exact (hi q.ring.val q.ring.isLt).trans (congrArg (fun p => p.events.getLsbD q.ring.val) hu.port)

/-- Settles O52. -/
theorem busErrorsFailTheRing : Obligations.BusErrorsFailTheRing := by
  intro c code q s hc hg
  constructor
  · intro k rest hn ha
    obtain ⟨t, ht, h⟩ := grantRequest_descriptor_error (code := code) (ruleOf code) hg hn ha
    exact ⟨t, (exec_request hc s).trans (congrArg Host.Outcome.next ht), h⟩
  · intro c' k rest t' hn h20 h31 ho ha hc' hexec
    have hrule : ruleOf code = workRule (workOf code.toNat) := by
      unfold ruleOf
      rw [if_neg h20, if_neg h31]
    obtain ⟨t, ht, hfails, hstore, hbulk, hhead⟩ := grantRequest_response_error (code := code)
      (w := workOf code.toNat) hg ho hn ha
    refine ⟨t, ?_, hfails, ?_, hbulk, hhead⟩
    · rw [exec_request hc s, hrule, ht]
    · rw [exec_request hc' s, hrule] at hexec
      cases hexec
      rw [hstore, ← workStore_blind code code.toNat q s []]
      exact (grantRequest_workStore (q := { q with hub.answers := [] }) hg ho nofun).symm

end Sys2Proof.Proofs
end

section
/-! PROOF. A reset in the middle of a work (O60). -/

namespace Sys2Proof.Proofs

open Sys2Proof Sys2Proof.Machine Sys2Proof.Laws

-- One thread: the whole text is compiled in one process, whose threads the check limits.
set_option Elab.async false

/-! ## What a work cut off by a reset leaves (R179) -/

/-- The bus has come to an access at which the reset pin is asserted. -/
def AtReset (u : State) : Prop := ∃ d rest, u.hub.answers = .reset d :: rest

/-- A work that begins in `s` and is cut off by a reset has come to `u`, hub memory being `mem`. -/
structure CutOff (mem : Table Byte) (s u : State) : Prop where
  mem : u.hub.mem = mem
  atReset : AtReset u
  alike : StandsAlike s u

theorem CutOff.ends {mem : Table Byte} {s u : State} (h : CutOff mem s u) : PinReset true mem s (endCommand u) := by
  obtain ⟨d, rest, hr⟩ := h.atReset
  rw [endCommand_reset hr, ← h.mem]
  exact resetPart_pinReset true h.alike

theorem StandsAlike.of_rings {s u : State} (h1 : u.settings = s.settings) (h2 : u.rings.notice = s.rings.notice)
    (h3 : u.pending = s.pending) (h4 : u.port.dataOut = s.port.dataOut) (h5 : u.rings.rings = s.rings.rings) :
    StandsAlike s u :=
  ⟨h1, h2, h3, h4, fun n => congrArg Ring.request (ringAt_congr h5 n), fun n => congrArg Ring.response (ringAt_congr h5 n)⟩

theorem StandsAlike.ring (s : State) (n : Nat) {r : Ring} (h1 : r.request = (ringAt s n).request)
    (h2 : r.response = (ringAt s n).response) : StandsAlike s (setRing s n r) := by
  refine ⟨rfl, rfl, rfl, rfl, fun k => ?_, fun k => ?_⟩
  · rw [ringAt_setRing]
    split
    · rename_i hk
      rw [hk, h1]
    · rfl
  · rw [ringAt_setRing]
    split
    · rename_i hk
      rw [hk, h2]
    · rfl

/-- A part of the work that sets no ring and stores nothing. -/
theorem CutOff.beside {mem : Table Byte} {s u v : State} (h : CutOff mem s u) (hm : v.hub.mem = u.hub.mem)
    (hr : AtReset v) (ha : StandsAlike u v) : CutOff mem s v :=
  ⟨hm.trans h.mem, hr, h.alike.trans ha⟩

theorem CutOff.ring {mem : Table Byte} {s u : State} (h : CutOff mem s u) (n : Nat) {r : Ring}
    (h1 : r.request = (ringAt u n).request) (h2 : r.response = (ringAt u n).response) :
    CutOff mem s (setRing u n r) :=
  h.beside rfl h.atReset (StandsAlike.ring u n h1 h2)

theorem CutOff.raise {mem : Table Byte} {s u : State} (h : CutOff mem s u) (e : BitVec 10) :
    CutOff mem s (raiseEvent u e) :=
  h.beside rfl h.atReset (.of_rings rfl rfl rfl rfl rfl)

/-- R159, R160: the end of a grant that does not look again. -/
theorem CutOff.ended {mem : Table Byte} {s u : State} (h : CutOff mem s u) (n : Nat) (x : RingState) :
    CutOff mem s (setRing u n (endedRing u n x)) := h.ring n rfl rfl

/-- The access at which the reset pin is asserted. -/
theorem CutOff.cut {mem : Table Byte} {s u : State} (h : CutOff mem s u) :
    CutOff mem s (withAnswers u [.reset 0]) :=
  h.beside rfl ⟨0, [], rfl⟩ (.of_rings rfl rfl rfl rfl rfl)

theorem CutOff.look {mem : Table Byte} {s u : State} (h : CutOff mem s u) (n : Nat) : CutOff mem s (look u n) := by
  obtain ⟨d, rest, hr⟩ := h.atReset
  have he : Machine.look u n = failRing (withAnswers u [.reset 0]) n := by
    unfold Machine.look
    dsimp only
    rw [busOwn_reset hr]
  rw [he]
  refine CutOff.raise (u := setRingState (withAnswers u [.reset 0]) n .failed) ?_ ringFailed
  exact CutOff.ring h.cut n rfl rfl

theorem CutOff.lookAgain {mem : Table Byte} {s u : State} (h : CutOff mem s u) (n : Nat) :
    CutOff mem s (lookAgain u n) := by
  unfold Machine.lookAgain endGrant
  split
  · exact h.ring n rfl rfl
  · exact h.look n

/-! ## A grant to a ring (R160, R163, R164) -/

theorem writeResponse_reset {u : State} {rest : List BusAnswer} (h : u.hub.answers = .reset 0 :: rest) (n : Nat)
    (code : Byte) (q : Request) (r : Reply) :
    writeResponse u n code q r = (false, withAnswers u [.reset 0]) := by
  unfold writeResponse writeBlock
  by_cases hw : wantsBlock q r = true
  · rw [if_pos hw, busWrite_reset h, storePart_nothing]
  · rw [if_neg hw]
    dsimp only
    rw [busWrite_reset h, storePart_nothing]

theorem CutOff.answer {mem : Table Byte} {s u : State} (h : CutOff mem s u) {rest : List BusAnswer}
    (hr : u.hub.answers = .reset 0 :: rest) (n : Nat) (code : Byte) (q : Request) (r : Reply) (ns : List Notice) :
    CutOff mem s (answer u n code q r ns) := by
  obtain ⟨e, he⟩ := writeNotices_cut (s := raiseEvent (withAnswers u [.reset 0]) ringFailed) rfl ns
  have ha : Machine.answer u n code q r ns =
      endGrant (writeNotices (raiseEvent (withAnswers u [.reset 0]) ringFailed) ns) n
        (fun s => setRingState s n .failed) := by
    unfold Machine.answer
    rw [writeResponse_reset hr]
  rw [ha, endGrant_eq, he]
  refine CutOff.ended ?_ n .failed
  exact h.cut.beside rfl ⟨0, [], rfl⟩ (.of_rings rfl rfl rfl rfl rfl)

theorem CutOff.reserveSlot {mem : Table Byte} {s u : State} (h : CutOff mem s u) (n : Nat) (q : Request) :
    CutOff mem s (reserveSlot u n q) := by
  have hslot : CutOff mem s { u with rings.reserved := some ⟨(ringAt u n).responseIndex, q.tag⟩ } :=
    h.beside rfl h.atReset (.of_rings rfl rfl rfl rfl rfl)
  exact CutOff.lookAgain (hslot.ring n (r := { ringAt u n with
    responseIndex := advance (ringAt u n).response (ringAt u n).responseIndex }) rfl rfl) n

/-- The rule of every request, cut off at its first access. -/
theorem carryOut_cutOff {mem : Table Byte} {s u : State} (h : CutOff mem s u) {rest : List BusAnswer}
    (hr : u.hub.answers = .reset 0 :: rest) (code : Byte) (q : Request) :
    CutOff mem s (carryOut code (ruleOf code) q u) := by
  have hrecords : ∀ (st : Store) (r : Reply) (ns : List Notice),
      CutOff mem s (answer { u with store := st } q.ring.val code q r ns) := fun st r ns =>
    CutOff.answer (h.beside (v := { u with store := st }) rfl h.atReset (.of_rings rfl rfl rfl rfl rfl)) hr _ _ _ _ _
  unfold carryOut
  split
  · exact h.answer hr _ _ _ _ _
  · unfold ruleOf
    by_cases h20 : code = 20#8
    · rw [if_pos h20]
      unfold tariffLoad
      rw [busRead_reset hr]
      by_cases hl : param q 4 2 < Config.tariffBytes
      · rw [if_pos hl]
        exact h.answer hr _ _ _ _ _
      · rw [if_neg hl]
        exact h.cut.answer rfl _ _ _ _ _
    · rw [if_neg h20]
      by_cases h31 : code = 31#8
      · rw [if_pos h31]
        unfold bulkCardLoad
        dsimp only
        by_cases h0 : param q 4 2 = 0
        · rw [if_pos h0]
          exact h.answer hr _ _ _ _ _
        rw [if_neg h0]
        by_cases hm : Config.bulkImages < param q 4 2
        · rw [if_pos hm]
          exact h.answer hr _ _ _ _ _
        rw [if_neg hm]
        by_cases hb : u.bulk.isSome = true
        · rw [if_pos hb]
          exact h.answer hr _ _ _ _ _
        · rw [if_neg hb]
          refine CutOff.reserveSlot (u := { u with bulk := _ }) ?_ _ _
          exact h.beside rfl h.atReset (.of_rings rfl rfl rfl rfl rfl)
      · rw [if_neg h31]
        exact hrecords _ _ _

/-- A grant to ring `n` leaves the places of every ring. -/
theorem StandsAlike.of_others {s u : State} {n : Nat} (h1 : u.settings = s.settings)
    (h2 : u.rings.notice = s.rings.notice) (h3 : u.pending = s.pending) (h4 : u.port = s.port)
    (hq : (ringAt u n).request = (ringAt s n).request) (hp : (ringAt u n).response = (ringAt s n).response)
    (ho : ∀ k, k ≠ n → ringAt u k = ringAt s k) : StandsAlike s u := by
  refine ⟨h1, h2, h3, congrArg Port.dataOut h4, fun k => ?_, fun k => ?_⟩ <;> by_cases hk : k = n
  · rw [hk, hq]
  · rw [ho k hk]
  · rw [hk, hp]
  · rw [ho k hk]

theorem grasp_alike {q : Request} {s u : State} (h : Grasp q s u) : StandsAlike s u :=
  .of_others h.settings h.notice h.pending h.port (by rw [h.ring]) (by rw [h.ring]) h.others

theorem ruleState_alike {code : Byte} {q : Request} {s u : State} (h : RuleState code q s u) : StandsAlike s u :=
  .of_others h.settings h.notice h.pending h.port (by rw [h.ring]) (by rw [h.ring]) h.others

/-- R160: a reset at the read of the descriptor or at its write-back. -/
theorem takeDescriptor_cutOff {code : Byte} {q : Request} {s : State} (rule : State → Request → Handled)
    (hg : granted q s = true) {d : Nat} {rest : List BusAnswer}
    (ha : q.hub.answers = .reset d :: rest ∨ (owned q = true ∧ q.hub.answers = .ok :: .reset d :: rest)) :
    CutOff (handedMem code q s) s (takeDescriptor code rule q (grantRing q s)) := by
  obtain ⟨u, hu, hh, hm, hans⟩ := handed_grasp code hg
  have hread : (handed code q s).hub.answers = q.hub.answers := hu ▸ hans
  have hcut : CutOff (handedMem code q s) s (withAnswers u [.reset 0]) :=
    ⟨hm, ⟨0, [], rfl⟩, (grasp_alike hh).trans (.of_rings rfl rfl rfl rfl rfl)⟩
  rcases ha with ha | ⟨ho, ha⟩
  · rw [takeDescriptor_unread hg (busRead_reset (hread.trans ha) _ _), hu]
    exact (hcut.raise ringFailed).ended _ _
  · rw [takeDescriptor_unwritten hg ho (busRead_ok (hread.trans ha) _ _)
      (busWrite_reset (s := withAnswers (handed code q s) (.reset d :: rest)) rfl _ _ _), hu]
    exact (hcut.raise ringFailed).ended _ _

theorem grantRequest_ends {code : Byte} {q : Request} {s : State} {rule : State → Request → Handled} {c : Instr}
    {mem : Table Byte} (hg : granted q s = true) (hc : exec c s = .next (grantRequest code rule q s))
    (h : CutOff mem s (takeDescriptor code rule q (grantRing q s))) :
    ∃ t, exec c s = .next t ∧ PinReset true mem s t :=
  ⟨_, hc.trans (congrArg Host.Outcome.next (if_pos hg)), h.ends⟩

/-! ## A load, a STOP and an INIT (R47, R174, R178) -/

theorem CutOff.endBulk {mem : Table Byte} {s u : State} (h : CutOff mem s u) (b : BulkLoad) (o : OutcomeCode) :
    CutOff mem s (endBulk u b o) := by
  obtain ⟨d, rest, hr⟩ := h.atReset
  cases hs : u.rings.reserved with
  | none =>
    rw [endBulk_unreserved hs]
    exact h.beside rfl h.atReset (.of_rings rfl rfl rfl rfl rfl)
  | some slot =>
    have he : Machine.endBulk u b o =
        afterReserved { withAnswers u [.reset 0] with bulk := none, rings.reserved := none } false := by
      unfold Machine.endBulk
      rw [hs]
      dsimp only
      rw [busWrite_reset hr]
      rfl
    have hover : CutOff mem s { withAnswers u [.reset 0] with bulk := none, rings.reserved := none } :=
      h.cut.beside rfl ⟨0, [], rfl⟩ (.of_rings rfl rfl rfl rfl rfl)
    have hcut := hover.raise ringFailed
    rw [he]
    unfold afterReserved
    dsimp only
    rw [if_neg Bool.false_ne_true]
    split
    · exact hcut.ring _ rfl rfl
    · exact hcut

theorem CutOff.halt {mem : Table Byte} {s u : State} (h : CutOff mem s u) : CutOff mem s (haltEngine u) := by
  refine h.beside (congrArg Hub.mem (haltEngine_hub u)) ?_
    ⟨haltEngine_settings u, haltEngine_notice u, haltEngine_pending u, ?_, fun n => ?_, fun n => ?_⟩
  · unfold AtReset
    rw [haltEngine_hub]
    exact h.atReset
  · rw [haltEngine_port]
  · rw [ringAt_haltEngine]
    split <;> rfl
  · rw [ringAt_haltEngine]
    split <;> rfl

theorem CutOff.begin {hub : HubInput} {d : Nat} {rest : List BusAnswer} (h : hub.answers = .reset d :: rest)
    (s : State) : CutOff (hubStores s.hub.mem hub.writes) s (beginCommand s hub) :=
  ⟨rfl, ⟨d, rest, h⟩, .of_rings rfl rfl rfl rfl rfl⟩

theorem CutOff.readSetup {mem : Table Byte} {s u : State} (h : CutOff mem s u) (kind : InitKind) :
    CutOff mem s (readSetup u kind) := by
  obtain ⟨d, rest, hr⟩ := h.atReset
  unfold Machine.readSetup
  rw [busRead_reset hr]
  refine CutOff.raise (u := { withAnswers u [.reset 0] with engine := _ }) ?_ initFailed
  exact h.cut.beside rfl ⟨0, [], rfl⟩ (.of_rings rfl rfl rfl rfl rfl)

theorem CutOff.completeStop {mem : Table Byte} {s u : State} (h : CutOff mem s u) : CutOff mem s (completeStop u) := by
  unfold Machine.completeStop stopBulk
  cases u.bulk with
  | none => exact h.halt
  | some b => exact (h.endBulk b .stopped).halt

theorem CutOff.bulkImage {mem : Table Byte} {s u : State} (h : CutOff mem s u) (b : BulkLoad) :
    CutOff mem s (bulkImage u b) := by
  obtain ⟨d, rest, hr⟩ := h.atReset
  unfold Machine.bulkImage
  rw [busRead_reset hr]
  exact h.cut.endBulk b .busError

/-- Settles O60. -/
theorem resetEndsTheWork : Obligations.ResetEndsTheWork := by
  refine ⟨fun c code q s hc hg => ?_, fun hub s d rest ha => ?_⟩
  · have hexec := exec_request hc s
    refine ⟨fun d rest ha => grantRequest_ends hg hexec (takeDescriptor_cutOff _ hg (.inl ha)),
      fun d rest ho ha => grantRequest_ends hg hexec (takeDescriptor_cutOff _ hg (.inr ⟨ho, ha⟩)),
      fun rest ho ha => grantRequest_ends hg hexec ?_⟩
    obtain ⟨u, hu, hans, ht⟩ := takeDescriptor_passes (code := code) (ruleOf code) hg ho ha
    have hcut : CutOff (takenMem code q s) s u :=
      ⟨hu.mem, ⟨0, rest, hans⟩, (ruleState_alike hu).trans (.of_rings rfl rfl rfl rfl rfl)⟩
    rw [ht]
    exact carryOut_cutOff hcut hans code q
  · have hcut := CutOff.begin ha s
    refine ⟨fun kind hk => ⟨_, exec_initCompletion hk, (hcut.readSetup kind).ends⟩,
      fun hrun hstop => ⟨_, exec_stopCompletion ⟨hrun, hstop⟩, hcut.completeStop.ends⟩, fun hg => ?_⟩
    have hload : s.bulk.isSome = true := (arbiterChoice_some hg).2.2.1
    obtain ⟨b, hb⟩ := Option.isSome_iff_exists.mp hload
    obtain ⟨p, -, he⟩ := bulkCardImage_exec (hub := hub) hb hg
    refine ⟨_, he, CutOff.ends (CutOff.bulkImage ?_ b)⟩
    exact hcut.beside rfl ⟨d, rest, ha⟩ (.of_rings rfl rfl rfl rfl rfl)

end Sys2Proof.Proofs
end
